-- ==== Sys2Proof/Word.lean ====
section
/-! DEFINITION. The types that carry the unit's data: spec/00_scope.md R5, spec/20_memory.md R40, R41. -/

namespace Sys2Proof

/-- A byte, what one transfer moves (spec/20_memory.md R40, R52). `DATA_W` is `UnitCfg.dataW`. -/
abbrev Byte := BitVec 8

/-- A chip register address as the address byte and the operand `addr` carry it (spec/20_memory.md R41,
spec/30_encoding.md R73). How many of its bits the chip has is `ADDR_W`, `UnitCfg.addrW`. -/
abbrev Addr := BitVec 7

/-- A command word `cmd[39:0]` (spec/30_encoding.md R71). -/
abbrev CmdWord := BitVec 40

end Sys2Proof
end

