-- ==== Sys2Proof/Config.lean ====
section
/-! DEFINITION. The parameters of spec/00_scope.md R4, the whole table as one record: `ChipMap` is the register layout,
`UnitCfg` the rest, with the widths, the opcode numbers and the status codes. The record is a field of the state, so every
claim about every state is parametric in it (log entry 2). -/

namespace Sys2Proof

namespace Config

/-- The spreading factor from which the automatic low-data-rate setting is on (spec/42_rf_config.md R126). -/
def ldrAutoSf : Nat := 10
/-- What the boosted path takes from the clamped level, `clamp(p, lo, hi) - 2` (spec/42_rf_config.md R122). -/
def boostBase : Int := 2

end Config

/-- A field of a chip register: its mask and the position of its lowest bit (spec/10_state.md R25). -/
structure Field where
  mask : Byte
  lo : Nat
deriving DecidableEq, Repr

/-- `CHIPMAP`: the addresses and bit fields of the chip registers the unit touches
(spec/10_state.md R25 to R29). -/
structure ChipMap where
  fifo : Addr
  opMode : Addr
  frfMsb : Addr
  frfMid : Addr
  frfLsb : Addr
  paConfig : Addr
  fifoAddrPtr : Addr
  fifoTxBase : Addr
  fifoRxBase : Addr
  fifoRxCurrent : Addr
  irqFlags : Addr
  rxNbBytes : Addr
  pktSnr : Addr
  pktRssi : Addr
  modemConfig1 : Addr
  modemConfig2 : Addr
  preambleMsb : Addr
  preambleLsb : Addr
  payloadLength : Addr
  modemConfig3 : Addr
  syncWord : Addr
  version : Addr
  /-- Fields of `REG_OP_MODE` (R26). -/
  longRange : Field
  modulationType : Field
  lowFreq : Field
  mode : Field
  /-- Flags of `REG_IRQ_FLAGS` (R27). -/
  rxTimeout : Field
  rxDone : Field
  crcError : Field
  validHeader : Field
  txDone : Field
  cadDone : Field
  fhssChange : Field
  cadDetected : Field
  /-- Fields of `REG_MODEM_CONFIG_1` (R28). -/
  bandwidth : Field
  codingRate : Field
  implicitHeader : Field
  /-- Fields of `REG_MODEM_CONFIG_2` (R28). -/
  spreadingFactor : Field
  payloadCrcOn : Field
  /-- Field of `REG_MODEM_CONFIG_3` (R28). -/
  lowDataRateOptimize : Field
  /-- Fields of `REG_PA_CONFIG` (R29). -/
  paSelect : Field
  maxPower : Field
  outputPower : Field
deriving DecidableEq, Repr

/-- `SEL_*`: the codes of the eight mode selectors (spec/00_scope.md R4, spec/10_state.md R26). -/
structure Selectors where
  sleep : BitVec 3
  standby : BitVec 3
  fsTx : BitVec 3
  tx : BitVec 3
  fsRx : BitVec 3
  rxCont : BitVec 3
  rxSingle : BitVec 3
  cad : BitVec 3
deriving DecidableEq, Repr

/-- The opcode numbers, one for each command (spec/00_scope.md R4, spec/30_encoding.md R73, R76). -/
structure Opcodes where
  init : Byte
  rdreg : Byte
  wrreg : Byte
  setmode : Byte
  setlr : Byte
  setfreq : Byte
  settxpwr : Byte
  setbw : Byte
  setsf : Byte
  setldr : Byte
  setcr : Byte
  setpreamble : Byte
  setsync : Byte
  setcrc : Byte
  setimpl : Byte
  beginpkt : Byte
  write : Byte
  endpkt : Byte
  receive : Byte
  rxpoll : Byte
  rdpayload : Byte
  pktrssi : Byte
  pktsnr : Byte
  onrecv : Byte
deriving DecidableEq, Repr

/-- The 24 commands as names, in the order of spec/30_encoding.md R73: what an opcode number stands for. -/
inductive Mnemonic where
  | init | rdreg | wrreg | setmode | setlr | setfreq | settxpwr | setbw
  | setsf | setldr | setcr | setpreamble | setsync | setcrc | setimpl | beginpkt
  | write | endpkt | receive | rxpoll | rdpayload | pktrssi | pktsnr | onrecv
deriving DecidableEq, Repr

/-- Every command's name, in the order of spec/30_encoding.md R73. -/
def Mnemonic.all : List Mnemonic :=
  [.init, .rdreg, .wrreg, .setmode, .setlr, .setfreq, .settxpwr, .setbw, .setsf, .setldr,
   .setcr, .setpreamble, .setsync, .setcrc, .setimpl, .beginpkt, .write, .endpkt, .receive, .rxpoll,
   .rdpayload, .pktrssi, .pktsnr, .onrecv]

/-- The opcode number of a command. -/
def Opcodes.of (o : Opcodes) : Mnemonic → Byte
  | .init => o.init
  | .rdreg => o.rdreg
  | .wrreg => o.wrreg
  | .setmode => o.setmode
  | .setlr => o.setlr
  | .setfreq => o.setfreq
  | .settxpwr => o.settxpwr
  | .setbw => o.setbw
  | .setsf => o.setsf
  | .setldr => o.setldr
  | .setcr => o.setcr
  | .setpreamble => o.setpreamble
  | .setsync => o.setsync
  | .setcrc => o.setcrc
  | .setimpl => o.setimpl
  | .beginpkt => o.beginpkt
  | .write => o.write
  | .endpkt => o.endpkt
  | .receive => o.receive
  | .rxpoll => o.rxpoll
  | .rdpayload => o.rdpayload
  | .pktrssi => o.pktrssi
  | .pktsnr => o.pktsnr
  | .onrecv => o.onrecv

/-- The 24 opcodes, in the order of spec/30_encoding.md R73. -/
def Opcodes.codes (o : Opcodes) : List Byte := Mnemonic.all.map o.of

/-- The status codes, 4 bits each (spec/00_scope.md R4, spec/30_encoding.md R75). -/
structure StatusCodes where
  ok : BitVec 4
  errOp : BitVec 4
  errArg : BitVec 4
  errState : BitVec 4
  errVersion : BitVec 4
  errBus : BitVec 4
  errTimeout : BitVec 4
deriving DecidableEq, Repr

/-- `UNITCFG` with `CHIPMAP`: every parameter of spec/00_scope.md R4. -/
structure UnitCfg where
  /-- `CHIPMAP` (spec/10_state.md R25). -/
  chip : ChipMap
  /-- `SEL_*` (spec/10_state.md R26). -/
  sel : Selectors
  /-- The opcode numbers (spec/30_encoding.md R76). -/
  op : Opcodes
  /-- The status codes (spec/30_encoding.md R75). -/
  status : StatusCodes
  /-- `ADDR_W`: the chip's addresses are those below `2 ^ ADDR_W` (spec/30_encoding.md R73). -/
  addrW : Nat
  /-- `DATA_W`: every field of a register lies within this many bits (spec/10_state.md R26 to R29). -/
  dataW : Nat
  /-- `WRITE_FLAG`, as a mask of the address byte (spec/20_memory.md R41). -/
  writeFlag : Byte
  /-- `READ_DUMMY` (spec/20_memory.md R42). -/
  readDummy : Byte
  /-- `VERSION_OK` (spec/45_init.md R170). -/
  versionOk : Byte
  /-- `MAX_PKT` (spec/43_packet_tx.md R141). -/
  maxPkt : Nat
  /-- `FXOSC_HZ` (spec/42_rf_config.md R120). -/
  fxoscHz : Nat
  /-- `FRF_SHIFT` (spec/42_rf_config.md R120). -/
  frfShift : Nat
  /-- `FRF_W`, the width of the frequency code (spec/42_rf_config.md R120). -/
  frfW : Nat
  /-- `BW_BINS`, in Hz (spec/42_rf_config.md R123). -/
  bwBins : List Nat
  /-- `SF_MIN` and `SF_MAX` (spec/30_encoding.md R73). -/
  sfMin : Nat
  sfMax : Nat
  /-- `CR_MIN` and `CR_MAX` (spec/30_encoding.md R73). -/
  crMin : Nat
  crMax : Nat
  /-- `PWR_BOOST_MIN` and `PWR_BOOST_MAX` (spec/42_rf_config.md R122). -/
  pwrBoostMin : Int
  pwrBoostMax : Int
  /-- `PWR_RFO_MIN` and `PWR_RFO_MAX` (spec/42_rf_config.md R122). -/
  pwrRfoMin : Int
  pwrRfoMax : Int
  /-- `PA_RFO_BITS` (spec/42_rf_config.md R122). -/
  paRfoBits : Byte
  /-- `PA_BOOST_BITS` (spec/42_rf_config.md R122). -/
  paBoostBits : Byte
  /-- `RSSI_OFFSET_LOW` and `RSSI_OFFSET_HIGH` (spec/44_packet_rx.md R158). -/
  rssiOffsetLow : Nat
  rssiOffsetHigh : Nat
  /-- `RSSI_SPLIT_HZ` (spec/44_packet_rx.md R158). -/
  rssiSplitHz : Nat
  /-- `LF_THRESHOLD_HZ` (spec/42_rf_config.md R121). -/
  lfThresholdHz : Nat
  /-- `FIFO_TX_BASE` (spec/43_packet_tx.md R140). -/
  fifoTxBase : Byte
  /-- `FIFO_RX_BASE` (spec/45_init.md R171). -/
  fifoRxBase : Byte
  /-- `TX_POLL_LIMIT`: `none` is `inf` (spec/43_packet_tx.md R144). -/
  txPollLimit : Option Nat
deriving DecidableEq, Repr

end Sys2Proof
end

