-- ==== Sys2Proof/Machine/Defaults.lean ====
section
/-! DEFINITION. The values of the parameters: the defaults of spec/00_scope.md R4, spec/10_state.md R25 to R29 and
spec/30_encoding.md R75, R76 (log entry 2). -/

namespace Sys2Proof

/-- The default `CHIPMAP` of spec/10_state.md R25 to R29. PRESUMED by the spec itself: its addresses and
positions are marked general knowledge there (log entry 2). -/
def ChipMap.default : ChipMap where
  fifo := 0x00
  opMode := 0x01
  frfMsb := 0x06
  frfMid := 0x07
  frfLsb := 0x08
  paConfig := 0x09
  fifoAddrPtr := 0x0D
  fifoTxBase := 0x0E
  fifoRxBase := 0x0F
  fifoRxCurrent := 0x10
  irqFlags := 0x12
  rxNbBytes := 0x13
  pktSnr := 0x19
  pktRssi := 0x1A
  modemConfig1 := 0x1D
  modemConfig2 := 0x1E
  preambleMsb := 0x20
  preambleLsb := 0x21
  payloadLength := 0x22
  modemConfig3 := 0x26
  syncWord := 0x39
  version := 0x42
  longRange := ⟨0x80, 7⟩
  modulationType := ⟨0x60, 5⟩
  lowFreq := ⟨0x08, 3⟩
  mode := ⟨0x07, 0⟩
  rxTimeout := ⟨0x80, 7⟩
  rxDone := ⟨0x40, 6⟩
  crcError := ⟨0x20, 5⟩
  validHeader := ⟨0x10, 4⟩
  txDone := ⟨0x08, 3⟩
  cadDone := ⟨0x04, 2⟩
  fhssChange := ⟨0x02, 1⟩
  cadDetected := ⟨0x01, 0⟩
  bandwidth := ⟨0xF0, 4⟩
  codingRate := ⟨0x0E, 1⟩
  implicitHeader := ⟨0x01, 0⟩
  spreadingFactor := ⟨0xF0, 4⟩
  payloadCrcOn := ⟨0x04, 2⟩
  lowDataRateOptimize := ⟨0x08, 3⟩
  paSelect := ⟨0x80, 7⟩
  maxPower := ⟨0x70, 4⟩
  outputPower := ⟨0x0F, 0⟩

/-- The selectors numbered in the source's order (spec/92_eei_decisions.md D7). -/
def Selectors.default : Selectors where
  sleep := 0
  standby := 1
  fsTx := 2
  tx := 3
  fsRx := 4
  rxCont := 5
  rxSingle := 6
  cad := 7

/-- The opcode map of spec/30_encoding.md R76. -/
def Opcodes.default : Opcodes where
  init := 0x01
  rdreg := 0x02
  wrreg := 0x03
  setmode := 0x10
  setlr := 0x11
  setfreq := 0x20
  settxpwr := 0x21
  setbw := 0x22
  setsf := 0x23
  setldr := 0x24
  setcr := 0x25
  setpreamble := 0x26
  setsync := 0x27
  setcrc := 0x28
  setimpl := 0x29
  beginpkt := 0x30
  write := 0x31
  endpkt := 0x32
  receive := 0x40
  rxpoll := 0x41
  rdpayload := 0x42
  pktrssi := 0x43
  pktsnr := 0x44
  onrecv := 0x45

/-- The codes of spec/30_encoding.md R75. -/
def StatusCodes.default : StatusCodes where
  ok := 0
  errOp := 1
  errArg := 2
  errState := 3
  errVersion := 4
  errBus := 5
  errTimeout := 6

/-- The values of spec/00_scope.md R4. `TX_POLL_LIMIT` is open there: DESIGN CHOICE `inf`, the value the vectors of
spec/95_test_vectors.md take unless they say otherwise (log entry 2). -/
def UnitCfg.default : UnitCfg where
  chip := .default
  sel := .default
  op := .default
  status := .default
  addrW := 7
  dataW := 8
  writeFlag := 0x80
  readDummy := 0x00
  versionOk := 0x12
  maxPkt := 255
  fxoscHz := 32000000
  frfShift := 19
  frfW := 24
  bwBins := [7800, 10400, 15600, 20800, 31250, 41700, 62500, 125000, 250000, 500000]
  sfMin := 6
  sfMax := 12
  crMin := 5
  crMax := 8
  pwrBoostMin := 2
  pwrBoostMax := 17
  pwrRfoMin := 0
  pwrRfoMax := 14
  paRfoBits := 0x70
  paBoostBits := 0x80
  rssiOffsetLow := 164
  rssiOffsetHigh := 157
  rssiSplitHz := 868000000
  lfThresholdHz := 600000000
  fifoTxBase := 0x00
  fifoRxBase := 0x00
  txPollLimit := none

end Sys2Proof
end

