-- ==== Sys2Proof/Syntax.lean ====
section
/-! DEFINITION. The commands of the unit: one constructor per row of spec/opcode_table.json, with the
operands of spec/30_encoding.md R73. -/

namespace Sys2Proof

/-- The 24 commands (spec/30_encoding.md R73, R76). A field is held at the width R73 gives it, so an
operand outside its legal range (R79) is an `Instr` that is not well formed; a one-bit field is a `Bool`. -/
inductive Instr where
  /-- `INIT` (spec/45_init.md R171). -/
  | init
  /-- `RDREG addr` (spec/40_register_access.md R100). -/
  | rdreg (addr : Addr)
  /-- `WRREG addr, value` (spec/40_register_access.md R101). -/
  | wrreg (addr : Addr) (value : Byte)
  /-- `SETMODE sel` (spec/41_mode_control.md R110). -/
  | setmode (sel : BitVec 3)
  /-- `SETLR en` (spec/41_mode_control.md R112). -/
  | setlr (en : Bool)
  /-- `SETFREQ f`, in Hz (spec/42_rf_config.md R121). -/
  | setfreq (f : BitVec 32)
  /-- `SETTXPWR level, boost`, `level` two's complement (spec/42_rf_config.md R122). -/
  | settxpwr (level : Byte) (boost : Bool)
  /-- `SETBW b`, in Hz (spec/42_rf_config.md R124). -/
  | setbw (b : BitVec 32)
  /-- `SETSF sf` (spec/42_rf_config.md R125). -/
  | setsf (sf : BitVec 4)
  /-- `SETLDR ldr` (spec/42_rf_config.md R126). -/
  | setldr (ldr : BitVec 2)
  /-- `SETCR den` (spec/42_rf_config.md R127). -/
  | setcr (den : BitVec 4)
  /-- `SETPREAMBLE len` (spec/42_rf_config.md R128). -/
  | setpreamble (len : BitVec 16)
  /-- `SETSYNC sw` (spec/42_rf_config.md R129). -/
  | setsync (sw : Byte)
  /-- `SETCRC en` (spec/42_rf_config.md R132). -/
  | setcrc (en : Bool)
  /-- `SETIMPL en` (spec/42_rf_config.md R131). -/
  | setimpl (en : Bool)
  /-- `BEGINPKT` (spec/43_packet_tx.md R140). -/
  | beginpkt
  /-- `WRITE n, bytes`, with `n` the number of bytes (spec/43_packet_tx.md R142, spec/30_encoding.md R72). -/
  | write (data : List Byte)
  /-- `ENDPKT` (spec/43_packet_tx.md R144). -/
  | endpkt
  /-- `RECEIVE size` (spec/44_packet_rx.md R150). -/
  | receive (size : Byte)
  /-- `RXPOLL size` (spec/44_packet_rx.md R152). -/
  | rxpoll (size : Byte)
  /-- `RDPAYLOAD` (spec/44_packet_rx.md R156). -/
  | rdpayload
  /-- `PKTRSSI` (spec/44_packet_rx.md R158). -/
  | pktrssi
  /-- `PKTSNR` (spec/44_packet_rx.md R160). -/
  | pktsnr
  /-- `ONRECV en` (spec/44_packet_rx.md R162). -/
  | onrecv (en : Bool)
deriving DecidableEq, Repr

end Sys2Proof
end

