-- ==== Sys2Proof/WellFormed.lean ====
section
/-! DEFINITION. What makes a command's operands legal (spec/30_encoding.md R79, case 2) and what makes a
parameter record legal (spec/92_eei_decisions.md, open parameters). -/

namespace Sys2Proof

/-- The quotient of `FreqCode` fits `FRF_W` bits (spec/42_rf_config.md R120). -/
def UnitCfg.freqFits (c : UnitCfg) (f : BitVec 32) : Bool :=
  decide (f.toNat * 2 ^ c.frfShift / c.fxoscHz < 2 ^ c.frfW)

/-- What the words of the format can say: a `WRITE` carries at most 65535 bytes, as its `n` has 16 bits
(spec/30_encoding.md R72, R73). -/
def Instr.encodable : Instr → Bool
  | .write data => decide (data.length < 65536)
  | .init | .rdreg _ | .wrreg _ _ | .setmode _ | .setlr _ | .setfreq _ | .settxpwr _ _ | .setbw _ | .setsf _
  | .setldr _ | .setcr _ | .setpreamble _ | .setsync _ | .setcrc _ | .setimpl _ | .beginpkt | .endpkt | .receive _
  | .rxpoll _ | .rdpayload | .pktrssi | .pktsnr | .onrecv _ => true

/-- The operand ranges of spec/30_encoding.md R73 and R79, at the limits the parameters give: a command outside them
answers `ERR_ARG`. -/
def Instr.inRange (c : UnitCfg) : Instr → Bool
  | .rdreg addr | .wrreg addr _ => decide (addr.toNat < 2 ^ c.addrW)
  | .setfreq f => c.freqFits f
  | .setsf sf => decide (c.sfMin ≤ sf.toNat) && decide (sf.toNat ≤ c.sfMax)
  | .setldr ldr => decide (ldr ≠ 3)
  | .setcr den => decide (c.crMin ≤ den.toNat) && decide (den.toNat ≤ c.crMax)
  | .init | .setmode _ | .setlr _ | .settxpwr _ _ | .setbw _ | .setpreamble _ | .setsync _ | .setcrc _ | .setimpl _
  | .beginpkt | .write _ | .endpkt | .receive _ | .rxpoll _ | .rdpayload | .pktrssi | .pktsnr | .onrecv _ => true

/-- A well-formed command: it can be encoded and its operands are in range (spec/30_encoding.md R79, case 2). The
command and the parameters alone decide. -/
def Instr.wf (c : UnitCfg) (i : Instr) : Bool := i.encodable && i.inRange c

/-- The mask is a run of `width` ones that starts at the field's lowest bit, within a register of `bits` bits. -/
def Field.isRun (f : Field) (bits width : Nat) : Bool :=
  decide (f.lo + width ≤ bits) && decide (f.mask = BitVec.ofNat 8 ((2 ^ width - 1) * 2 ^ f.lo))

/-- No bit belongs to two fields of the list. -/
def Field.disjoint : List Field → Bool
  | [] => true
  | f :: fs => fs.all (fun g => decide (f.mask &&& g.mask = 0)) && Field.disjoint fs

/-- The addresses of the map, in the order of spec/10_state.md R25. -/
def ChipMap.addresses (m : ChipMap) : List Addr :=
  [m.fifo, m.opMode, m.frfMsb, m.frfMid, m.frfLsb, m.paConfig, m.fifoAddrPtr, m.fifoTxBase, m.fifoRxBase,
   m.fifoRxCurrent, m.irqFlags, m.rxNbBytes, m.pktSnr, m.pktRssi, m.modemConfig1, m.modemConfig2,
   m.preambleMsb, m.preambleLsb, m.payloadLength, m.modemConfig3, m.syncWord, m.version]

/-- Every field has the width spec/10_state.md R26 to R29 gives it, within registers of `bits` bits. -/
def ChipMap.fieldWidths (m : ChipMap) (bits : Nat) : Bool :=
  m.longRange.isRun bits 1 && m.modulationType.isRun bits 2 && m.lowFreq.isRun bits 1 && m.mode.isRun bits 3 &&
  m.rxTimeout.isRun bits 1 && m.rxDone.isRun bits 1 && m.crcError.isRun bits 1 && m.validHeader.isRun bits 1 &&
  m.txDone.isRun bits 1 && m.cadDone.isRun bits 1 && m.fhssChange.isRun bits 1 && m.cadDetected.isRun bits 1 &&
  m.bandwidth.isRun bits 4 && m.codingRate.isRun bits 3 && m.implicitHeader.isRun bits 1 &&
  m.spreadingFactor.isRun bits 4 && m.payloadCrcOn.isRun bits 1 && m.lowDataRateOptimize.isRun bits 1 &&
  m.paSelect.isRun bits 1 && m.maxPower.isRun bits 3 && m.outputPower.isRun bits 4

/-- A legal `CHIPMAP`: pairwise distinct addresses (spec/91_not_in_source.md N1) of `addrW` bits, and fields of the stated
widths that do not overlap within a register of `dataW` bits. -/
def ChipMap.legal (m : ChipMap) (addrW dataW : Nat) : Bool :=
  decide m.addresses.Nodup && m.addresses.all (fun a => decide (a.toNat < 2 ^ addrW)) && m.fieldWidths dataW &&
  Field.disjoint [m.longRange, m.modulationType, m.lowFreq, m.mode] &&
  Field.disjoint [m.rxTimeout, m.rxDone, m.crcError, m.validHeader, m.txDone, m.cadDone, m.fhssChange, m.cadDetected] &&
  Field.disjoint [m.bandwidth, m.codingRate, m.implicitHeader] &&
  Field.disjoint [m.spreadingFactor, m.payloadCrcOn] &&
  Field.disjoint [m.paSelect, m.maxPower, m.outputPower]

/-- The eight codes, in the order of spec/10_state.md R26. -/
def Selectors.codes (s : Selectors) : List (BitVec 3) :=
  [s.sleep, s.standby, s.fsTx, s.tx, s.fsRx, s.rxCont, s.rxSingle, s.cad]

/-- The seven codes, in the order of spec/30_encoding.md R75. -/
def StatusCodes.codes (k : StatusCodes) : List (BitVec 4) :=
  [k.ok, k.errOp, k.errArg, k.errState, k.errVersion, k.errBus, k.errTimeout]

/-- The widths are ones the formats can carry: an address has the seven bits that the address byte and `addr` leave it
(spec/20_memory.md R41, spec/30_encoding.md R73), a register is the byte of a transfer (spec/20_memory.md R40, R52), the
frequency code lies in three registers (spec/42_rf_config.md R121). -/
def UnitCfg.legalWidths (c : UnitCfg) : Bool :=
  decide (c.addrW ≤ 7) && decide (c.dataW = 8) && decide (c.frfW ≤ 24)

/-- The power levels and the constant bits of the two PA paths stay apart in the byte (spec/42_rf_config.md R122,
spec/92_eei_decisions.md open parameters). -/
def UnitCfg.legalPower (c : UnitCfg) : Bool :=
  decide (c.paBoostBits &&& 0x0F = 0) && decide (c.paRfoBits &&& 0x0F = 0) &&
  decide (Config.boostBase ≤ c.pwrBoostMin) && decide (c.pwrBoostMin ≤ c.pwrBoostMax) &&
  decide (c.pwrBoostMax ≤ Config.boostBase + 15) &&
  decide (0 ≤ c.pwrRfoMin) && decide (c.pwrRfoMin ≤ c.pwrRfoMax) && decide (c.pwrRfoMax ≤ 15)

/-- A legal parameter record (log entry 2): a legal map, distinct selectors, opcodes and status codes, widths the formats can carry, the write flag at the one bit the seven
address bits leave free, a positive poll limit or `inf` (spec/92_eei_decisions.md open parameters), and limits whose
values fit the fields they go to. -/
def UnitCfg.legal (c : UnitCfg) : Bool :=
  c.chip.legal c.addrW c.dataW && decide c.sel.codes.Nodup && decide c.op.codes.Nodup &&
  decide c.status.codes.Nodup && c.legalWidths && decide (c.writeFlag = 0x80) && decide (c.txPollLimit ≠ some 0) &&
  decide (c.maxPkt ≤ 255) && decide (0 < c.fxoscHz) &&
  decide (c.bwBins ≠ []) && decide (c.bwBins.length ≤ 16) && decide (c.bwBins.Pairwise (· < ·)) &&
  decide (c.sfMax ≤ 15) && decide (4 ≤ c.crMin) && decide (c.crMax ≤ 11) && c.legalPower &&
  decide (c.rssiOffsetLow ≤ 2 ^ 31) && decide (c.rssiOffsetHigh ≤ 2 ^ 31)

end Sys2Proof
end

