-- ==== Sys2Proof/Decode.lean ====
section
/-! DEFINITION. The decoder and the encoder of command words: format `C40` of spec/30_encoding.md R71 to
R73, R76 to R78. -/

namespace Sys2Proof

/-- What the decoder answers for a command word and the byte stream that follows it. -/
inductive Decoded where
  /-- A legal opcode with its reserved bits zero. -/
  | ok (i : Instr)
  /-- `op` is not in the opcode map (spec/30_encoding.md R77). -/
  | illegalOp
  /-- A reserved bit of `arg` is 1 (spec/30_encoding.md R78). -/
  | reservedBits
  /-- `WRITE` with fewer bytes on the stream than its `n` (spec/30_encoding.md R72): the command has not
  been presented whole. -/
  | dataMissing
deriving DecidableEq, Repr

/-- `op` = `cmd[39:32]` (spec/30_encoding.md R71). -/
def opField (w : CmdWord) : Byte := w.extractLsb' 32 8

/-- `arg` = `cmd[31:0]` (spec/30_encoding.md R71). -/
def argField (w : CmdWord) : BitVec 32 := w.extractLsb' 0 32

/-- The command an opcode number stands for, none where it is illegal (spec/30_encoding.md R76, R77). -/
def Opcodes.find (o : Opcodes) (op : Byte) : Option Mnemonic := Mnemonic.all.find? fun k => decide (o.of k = op)

/-- How many bytes of the stream belong to the command: `arg[15:0]` for `WRITE`, whatever its reserved
bits, and none for every other word (spec/30_encoding.md R72, R77, R78). -/
def dataCount (o : Opcodes) (w : CmdWord) : Nat :=
  if o.find (opField w) = some .write then ((argField w).extractLsb' 0 16).toNat else 0

/-- The command unless one of the reserved bits is 1 (spec/30_encoding.md R78). -/
def reserved (arg mask : BitVec 32) (i : Instr) : Decoded :=
  if arg &&& mask = 0 then .ok i else .reservedBits

/-- The command of one name: its operand fields and its reserved bits are those of spec/30_encoding.md R73. Operand
ranges (R79) are not the decoder's: see `Instr.wf`. -/
def decodeOperands (k : Mnemonic) (arg : BitVec 32) (stream : List Byte) : Decoded :=
  match k with
  | .init => reserved arg 0xFFFFFFFF .init
  | .rdreg => reserved arg 0xFFFFFF80 (.rdreg (arg.extractLsb' 0 7))
  | .wrreg => reserved arg 0xFFFF0080 (.wrreg (arg.extractLsb' 0 7) (arg.extractLsb' 8 8))
  | .setmode => reserved arg 0xFFFFFFF8 (.setmode (arg.extractLsb' 0 3))
  | .setlr => reserved arg 0xFFFFFFFE (.setlr (arg.getLsbD 0))
  | .setfreq => .ok (.setfreq arg)
  | .settxpwr => reserved arg 0xFFFFFE00 (.settxpwr (arg.extractLsb' 0 8) (arg.getLsbD 8))
  | .setbw => .ok (.setbw arg)
  | .setsf => reserved arg 0xFFFFFFF0 (.setsf (arg.extractLsb' 0 4))
  | .setldr => reserved arg 0xFFFFFFFC (.setldr (arg.extractLsb' 0 2))
  | .setcr => reserved arg 0xFFFFFFF0 (.setcr (arg.extractLsb' 0 4))
  | .setpreamble => reserved arg 0xFFFF0000 (.setpreamble (arg.extractLsb' 0 16))
  | .setsync => reserved arg 0xFFFFFF00 (.setsync (arg.extractLsb' 0 8))
  | .setcrc => reserved arg 0xFFFFFFFE (.setcrc (arg.getLsbD 0))
  | .setimpl => reserved arg 0xFFFFFFFE (.setimpl (arg.getLsbD 0))
  | .beginpkt => reserved arg 0xFFFFFFFF .beginpkt
  | .write =>
    let n := (arg.extractLsb' 0 16).toNat
    if stream.length < n then .dataMissing else reserved arg 0xFFFF0000 (.write (stream.take n))
  | .endpkt => reserved arg 0xFFFFFFFF .endpkt
  | .receive => reserved arg 0xFFFFFF00 (.receive (arg.extractLsb' 0 8))
  | .rxpoll => reserved arg 0xFFFFFF00 (.rxpoll (arg.extractLsb' 0 8))
  | .rdpayload => reserved arg 0xFFFFFFFF .rdpayload
  | .pktrssi => reserved arg 0xFFFFFFFF .pktrssi
  | .pktsnr => reserved arg 0xFFFFFFFF .pktsnr
  | .onrecv => reserved arg 0xFFFFFFFE (.onrecv (arg.getLsbD 0))

/-- Decoding is on `op` alone, with the opcodes of the parameters (spec/30_encoding.md R76). -/
def decode (o : Opcodes) (w : CmdWord) (stream : List Byte) : Decoded :=
  match o.find (opField w) with
  | none => .illegalOp
  | some k => decodeOperands k (argField w) stream

/-- The name of a command (spec/30_encoding.md R73). -/
def Instr.mnemonic : Instr → Mnemonic
  | .init => .init
  | .rdreg _ => .rdreg
  | .wrreg _ _ => .wrreg
  | .setmode _ => .setmode
  | .setlr _ => .setlr
  | .setfreq _ => .setfreq
  | .settxpwr _ _ => .settxpwr
  | .setbw _ => .setbw
  | .setsf _ => .setsf
  | .setldr _ => .setldr
  | .setcr _ => .setcr
  | .setpreamble _ => .setpreamble
  | .setsync _ => .setsync
  | .setcrc _ => .setcrc
  | .setimpl _ => .setimpl
  | .beginpkt => .beginpkt
  | .write _ => .write
  | .endpkt => .endpkt
  | .receive _ => .receive
  | .rxpoll _ => .rxpoll
  | .rdpayload => .rdpayload
  | .pktrssi => .pktrssi
  | .pktsnr => .pktsnr
  | .onrecv _ => .onrecv

/-- The opcode of a command (spec/30_encoding.md R73). -/
def opcodeOf (o : Opcodes) (i : Instr) : Byte := o.of i.mnemonic

/-- The operand field of a command (spec/30_encoding.md R73). -/
def argOf : Instr → BitVec 32
  | .init => 0
  | .rdreg addr => addr.setWidth 32
  | .wrreg addr value => (value.setWidth 32 <<< 8) ||| addr.setWidth 32
  | .setmode sel => sel.setWidth 32
  | .setlr en => (BitVec.ofBool en).setWidth 32
  | .setfreq f => f
  | .settxpwr level boost => ((BitVec.ofBool boost).setWidth 32 <<< 8) ||| level.setWidth 32
  | .setbw b => b
  | .setsf sf => sf.setWidth 32
  | .setldr ldr => ldr.setWidth 32
  | .setcr den => den.setWidth 32
  | .setpreamble len => len.setWidth 32
  | .setsync sw => sw.setWidth 32
  | .setcrc en => (BitVec.ofBool en).setWidth 32
  | .setimpl en => (BitVec.ofBool en).setWidth 32
  | .beginpkt => 0
  | .write data => BitVec.ofNat 32 data.length
  | .endpkt => 0
  | .receive size => size.setWidth 32
  | .rxpoll size => size.setWidth 32
  | .rdpayload => 0
  | .pktrssi => 0
  | .pktsnr => 0
  | .onrecv en => (BitVec.ofBool en).setWidth 32

/-- The bytes that follow the command word (spec/30_encoding.md R72). -/
def dataOf : Instr → List Byte
  | .write data => data
  | _ => []

/-- The command word (spec/30_encoding.md R71). -/
def encodeWord (o : Opcodes) (i : Instr) : CmdWord := opcodeOf o i ++ argOf i

/-- The words of a well-formed command: its 40-bit word and its data bytes (spec/30_encoding.md R71, R72). -/
def encode (o : Opcodes) (i : Instr) : CmdWord × List Byte := (encodeWord o i, dataOf i)

/-- The 40-bit word whose bits below `nbits` are those of `w`, the others 0. -/
def tableWord (nbits w : Nat) : CmdWord := BitVec.ofNat 40 (w % 2 ^ nbits)

/-- The instruction read from a table word with the opcodes of spec/30_encoding.md R76 and a byte stream of zeros. -/
def decodeTableWord (nbits w : Nat) : Option Instr :=
  match decode .default (tableWord nbits w) (List.replicate (dataCount .default (tableWord nbits w)) 0) with
  | .ok i => some i
  | .illegalOp => none
  | .reservedBits => none
  | .dataMissing => none

end Sys2Proof
end

