-- ==== Sys2Proof/Machine/State.lean ====
section
/-! DEFINITION. The state of the unit (spec/10_state.md R12 to R20), what passes its ports (R32), the ways a
step can stop, and the state after reset (R31, spec/70_reset_and_hazards.md R210). -/

namespace Sys2Proof.Machine

/-- `u.ustate`, the lifecycle state (spec/10_state.md R12). -/
inductive UState where
  | uninit
  | ready
  | failed
deriving DecidableEq, Repr

/-- The status of a response (spec/30_encoding.md R75). -/
inductive Status where
  | ok
  | errOp
  | errArg
  | errState
  | errVersion
  | errBus
  | errTimeout
deriving DecidableEq, Repr

/-- What the Bus Collaborator answers to one `BusXfer` (spec/20_memory.md R40). -/
inductive BusResp where
  | byte (b : Byte)
  | error
deriving DecidableEq, Repr

/-- What the unit puts on the callback port: a received payload (spec/60_exceptions.md R190) or the abort of
a handler sequence (R192). -/
inductive CallbackEvent where
  | payload (bytes : List Byte)
  | irqAbort (st : Status)
deriving DecidableEq, Repr

/-- What the unit puts on its output ports (spec/10_state.md R32). -/
inductive Event where
  /-- `BusXfer(a, d)` made, with its answer (spec/20_memory.md R40). -/
  | xfer (a d : Byte) (r : BusResp)
  /-- `BusXfer(a, d)` issued and not answered before `rst` abandoned the sequence
  (spec/70_reset_and_hazards.md R210, R224). -/
  | abandoned (a d : Byte)
  /-- The response of a command (spec/30_encoding.md R74). -/
  | response (st : Status) (result : BitVec 32) (data : List Byte)
  /-- An event on the callback port (spec/60_exceptions.md R190, R192). -/
  | callback (e : CallbackEvent)
  /-- `arm(rising)` on the interrupt-control port (spec/60_exceptions.md R186). -/
  | arm
  /-- `disarm` on the interrupt-control port (spec/60_exceptions.md R186). -/
  | disarm
deriving DecidableEq, Repr

/-- What the outside world can do to the unit (spec/10_state.md R32, spec/60_exceptions.md R195). -/
inductive Input where
  /-- The answer the next bus transfer gets (spec/20_memory.md R40, R46). -/
  | bus (r : BusResp)
  /-- A rising edge of the interrupt pin (spec/60_exceptions.md R187). -/
  | dio0Rise
  /-- The reset input (spec/70_reset_and_hazards.md R210). -/
  | rst
  /-- The host presents a command word and puts bytes on the byte stream (spec/30_encoding.md R70, R72). -/
  | command (w : CmdWord) (bytes : List Byte)
  /-- The host takes the event on the callback port (spec/60_exceptions.md R190). -/
  | takeCallback
deriving DecidableEq, Repr

/-- `u.seq` (spec/10_state.md R19). The position in a sequence is the trail: the bytes its transfers have been
answered so far, oldest first (log entry 3). -/
inductive Seq where
  | idle
  | fg (cmd : Instr) (trail : List Byte)
  | irq (trail : List Byte)
deriving DecidableEq, Repr

/-- The state of the unit. The first eight fields are the spec's; `log`, `inputs`, `cmdWords`, `cmdBytes` and
`cfg` are the model's own (log entries 1, 2, 4, 7). -/
structure State where
  /-- `u.ustate` (spec/10_state.md R12). -/
  ustate : UState
  /-- `u.mode_shadow` (spec/10_state.md R13). -/
  modeShadow : Option Byte
  /-- `u.freq_shadow`, in Hz (spec/10_state.md R14). -/
  freqShadow : Option (BitVec 32)
  /-- `u.implicit_shadow` (spec/10_state.md R15). -/
  implicitShadow : Bool
  /-- `u.cb_armed` (spec/10_state.md R17). -/
  cbArmed : Bool
  /-- `u.irq_pending` (spec/10_state.md R18). -/
  irqPending : Bool
  /-- `u.seq` (spec/10_state.md R19). -/
  seq : Seq
  /-- The callback port: the last event not yet taken (spec/60_exceptions.md R190, log entry 8). -/
  callbackPort : Option CallbackEvent
  /-- Everything put on the output ports, oldest first (spec/10_state.md R32, log entry 7). -/
  log : List Event
  /-- What the outside world will do, in order (spec/10_state.md R21, log entry 1). -/
  inputs : List Input
  /-- The words the host presents on the command port, in order (spec/30_encoding.md R70, log entry 4). -/
  cmdWords : List CmdWord
  /-- The byte stream of the command port (spec/30_encoding.md R72, log entry 4). -/
  cmdBytes : List Byte
  /-- The parameters (spec/00_scope.md R4, log entry 2). -/
  cfg : UnitCfg
deriving DecidableEq, Repr

/-- The unit has no fault that stops it: every word has an outcome (spec/30_encoding.md R77 to R79) and every
error is a status (spec/60_exceptions.md R180, R181). So no step raises one; this is neither safe nor unsafe. -/
inductive Fault where
deriving DecidableEq, Repr

/-- Why a step has no meaning. -/
inductive Refusal where
  /-- Raised by an arm of `exec` whose instruction has no meaning yet; safe. No arm raises it. -/
  | notModelled (mnemonic : String)
deriving DecidableEq, Repr

/-- The machine right after reset (spec/10_state.md R31, spec/70_reset_and_hazards.md R210). Its log holds the
`disarm` request that reset issues. -/
def State.reset : State where
  ustate := .uninit
  modeShadow := none
  freqShadow := none
  implicitShadow := false
  cbArmed := false
  irqPending := false
  seq := .idle
  callbackPort := none
  log := [.disarm]
  inputs := []
  cmdWords := []
  cmdBytes := []
  cfg := .default

end Sys2Proof.Machine
end

