-- ==== Sys2Proof/Machine/Operands.lean ====
section
/-! DEFINITION. The values commands compute from their operands and from the bytes read: bit fields,
`FreqCode`, `Quantize`, the power byte, `Capacity`, RSSI and SNR. -/

namespace Sys2Proof.Machine

/-- The field of a register byte, as an unsigned number (spec/00_scope.md R5). -/
def fieldGet (f : Field) (b : Byte) : Byte := (b &&& f.mask) >>> f.lo

/-- A value at the place of the field; no bit outside the mask is set, as `RMW` asks of its `val`
(spec/40_register_access.md R102). -/
def fieldPlace (f : Field) (v : Byte) : Byte := (v <<< f.lo) &&& f.mask

/-- `(old & ~mask) | val` (spec/40_register_access.md R102). -/
def maskedUpdate (old mask val : Byte) : Byte := (old &&& ~~~mask) ||| val

/-- A mode selector at the place of the `MODE` field (spec/10_state.md R26). -/
def selectorBits (c : UnitCfg) (sel : BitVec 3) : Byte := fieldPlace c.chip.mode (sel.setWidth 8)

/-- The operating-mode byte with its selector replaced (spec/41_mode_control.md R111, R113). -/
def withSelector (c : UnitCfg) (m : Byte) (sel : BitVec 3) : Byte :=
  maskedUpdate m c.chip.mode.mask (selectorBits c sel)

/-- The operating-mode byte with the long-range bit set or cleared (spec/41_mode_control.md R113). -/
def withLongRange (c : UnitCfg) (m : Byte) (en : Bool) : Byte :=
  if en then m ||| c.chip.longRange.mask else m &&& ~~~c.chip.longRange.mask

/-- One bit as a byte, `zext_8` (spec/00_scope.md R5). -/
def bitByte (b : Bool) : Byte := if b then 1 else 0

/-- `FreqCode(f) = floor(f * 2^FRF_SHIFT / FXOSC_HZ)`, `FRF_W` bits (spec/42_rf_config.md R120). -/
def freqCode (c : UnitCfg) (f : BitVec 32) : BitVec c.frfW :=
  BitVec.ofNat c.frfW (f.toNat * 2 ^ c.frfShift / c.fxoscHz)

/-- The low-frequency-access field for a frequency (spec/42_rf_config.md R121). -/
def lowFreqBits (c : UnitCfg) (f : BitVec 32) : Byte :=
  if f.toNat < c.lfThresholdHz then c.chip.lowFreq.mask else 0

/-- `clamp(p, lo, hi)` (spec/00_scope.md R5). -/
def clamp (p lo hi : Int) : Int := if p < lo then lo else if hi < p then hi else p

/-- The byte `SETTXPWR` writes (spec/42_rf_config.md R122). -/
def powerByte (c : UnitCfg) (level : Byte) (boost : Bool) : Byte :=
  if boost then
    c.paBoostBits ||| BitVec.ofInt 8 (clamp level.toInt c.pwrBoostMin c.pwrBoostMax - Config.boostBase)
  else
    c.paRfoBits ||| BitVec.ofInt 8 (clamp level.toInt c.pwrRfoMin c.pwrRfoMax)

/-- The index of the first bin that reaches `b`, the last index where none does. -/
def quantizeIn : List Nat → Nat → Nat
  | [], _ => 0
  | [_], _ => 0
  | bin :: bins, b => if b ≤ bin then 0 else quantizeIn bins b + 1

/-- `Quantize(b)`: the least bin index whose bin is at least `b`, else the widest (spec/42_rf_config.md R123). -/
def quantize (c : UnitCfg) (b : BitVec 32) : Nat := quantizeIn c.bwBins b.toNat

/-- Whether `SETLDR` turns the flag on in automatic mode, from the byte of `REG_MODEM_CONFIG_2`
(spec/42_rf_config.md R126). -/
def ldrAuto (c : UnitCfg) (s : Byte) : Bool :=
  decide (Config.ldrAutoSf ≤ (fieldGet c.chip.spreadingFactor s).toNat)

/-- The field code of a coding-rate denominator, `den - 4` (spec/42_rf_config.md R127). -/
def codingRateCode (den : BitVec 4) : Byte := den.setWidth 8 - 4

/-- `Capacity(cur) = max(0, MAX_PKT - FIFO_TX_BASE - cur)` (spec/43_packet_tx.md R141). -/
def capacity (c : UnitCfg) (cur : Byte) : Nat := c.maxPkt - c.fifoTxBase.toNat - cur.toNat

/-- How many of `n` bytes `WRITE` accepts, `min(n, Capacity(cur))` (spec/43_packet_tx.md R142). -/
def acceptedCount (c : UnitCfg) (cur : Byte) (n : Nat) : Nat := min n (capacity c cur)

/-- The RSSI result: the raw byte minus the offset of the band, on integers, as 32-bit two's complement
(spec/44_packet_rx.md R158). -/
def rssiResult (c : UnitCfg) (freq : BitVec 32) (raw : Byte) : BitVec 32 :=
  BitVec.ofInt 32
    ((raw.toNat : Int) - ((if freq.toNat < c.rssiSplitHz then c.rssiOffsetLow else c.rssiOffsetHigh : Nat) : Int))

/-- The SNR result, `sext_32(raw)` in quarter-dB (spec/44_packet_rx.md R160). -/
def snrResult (raw : Byte) : BitVec 32 := raw.signExtend 32

end Sys2Proof.Machine
end

