-- ==== Sys2Proof/Machine/Flags.lean ====
section
/-! DEFINITION. What plays the part of flags (spec/10_state.md R22): the status codes of responses and the
tests on the chip's IRQ-flag byte. -/

namespace Sys2Proof.Machine

/-- The 4-bit status code (spec/30_encoding.md R75). -/
def statusCode (c : UnitCfg) : Status → BitVec 4
  | .ok => c.status.ok
  | .errOp => c.status.errOp
  | .errArg => c.status.errArg
  | .errState => c.status.errState
  | .errVersion => c.status.errVersion
  | .errBus => c.status.errBus
  | .errTimeout => c.status.errTimeout

/-- What an event puts on the response port: the status code, the result and the data (spec/30_encoding.md R74). -/
def responseRecord (c : UnitCfg) : Event → Option (BitVec 4 × BitVec 32 × List Byte)
  | .response st result data => some (statusCode c st, result, data)
  | .xfer _ _ _ => none
  | .abandoned _ _ => none
  | .callback _ => none
  | .arm => none
  | .disarm => none

/-- `(v & 0x08) != 0`: TX-done seen (spec/43_packet_tx.md R144). -/
def txDoneSeen (c : UnitCfg) (v : Byte) : Bool := decide (v &&& c.chip.txDone.mask ≠ 0)

/-- `v = 0x40`: RX-done and nothing else (spec/44_packet_rx.md R152). -/
def rxDoneAlone (c : UnitCfg) (v : Byte) : Bool := decide (v = c.chip.rxDone.mask)

/-- `(v & 0x20) = 0`: no CRC error (spec/60_exceptions.md R189). -/
def crcClear (c : UnitCfg) (v : Byte) : Bool := decide (v &&& c.chip.crcError.mask = 0)

/-- The poll limit is finite and reached after `k` reads (spec/43_packet_tx.md R144). -/
def pollLimitReached (c : UnitCfg) (k : Nat) : Bool := decide (c.txPollLimit = some k)

/-- The version byte is the accepted one, all eight bits compared (spec/45_init.md R170). -/
def versionAccepted (c : UnitCfg) (v : Byte) : Bool := decide (v = c.versionOk)

end Sys2Proof.Machine
end

