-- ==== Sys2Proof/Machine/Ops.lean ====
section
/-! DEFINITION. The operations all sequences share: assignments to the unit's state, scripts of bus
transfers (`BusRead`, `BusWrite`, `RMW`), running a script against the inputs, ending it with a response or an
event, raising an error, the interrupt latch, reset, and resuming a script that waits. -/

namespace Sys2Proof.Machine

/-! ## Assignments -/

/-- `u.x <- v` of the pseudocode, one constructor per element, and the requests on the interrupt-control
port (spec/00_scope.md R6, spec/44_packet_rx.md R162). -/
inductive Assign where
  | ustate (v : UState)
  | modeShadow (w : Byte)
  /-- `u.mode_shadow <- (u.mode_shadow & ~0x07) | sel` (spec/43_packet_tx.md R144). -/
  | modeSelector (sel : BitVec 3)
  | freqShadow (f : BitVec 32)
  | implicitShadow (b : Bool)
  | cbArmed (b : Bool)
  | irqPending (b : Bool)
  /-- Request `arm(rising)` (spec/60_exceptions.md R186). -/
  | arm
  /-- Request `disarm` (spec/60_exceptions.md R186). -/
  | disarm
deriving DecidableEq, Repr

/-- Put an event on an output port. -/
def State.emit (s : State) (e : Event) : State := { s with log := s.log ++ [e] }

/-- Carry out an assignment. `modeSelector` leaves a shadow that is `none` as it is (log entry 11). -/
def Assign.apply (a : Assign) (s : State) : State :=
  match a with
  | .ustate v => { s with ustate := v }
  | .modeShadow w => { s with modeShadow := some w }
  | .modeSelector sel => { s with modeShadow := s.modeShadow.map (fun m => withSelector s.cfg m sel) }
  | .freqShadow f => { s with freqShadow := some f }
  | .implicitShadow b => { s with implicitShadow := b }
  | .cbArmed b => { s with cbArmed := b }
  | .irqPending b => { s with irqPending := b }
  | .arm => s.emit .arm
  | .disarm => s.emit .disarm

/-! ## Scripts -/

/-- How a sequence ends. -/
inductive Finish where
  /-- `respond(status, result, data)` (spec/30_encoding.md R74). -/
  | respond (st : Status) (result : BitVec 32) (data : List Byte)
  /-- `emit Callback(p)`, the end of a handler sequence (spec/60_exceptions.md R189, R190). -/
  | callback (bytes : List Byte)
  /-- The end of a handler sequence that emits nothing (spec/60_exceptions.md R189). -/
  | silent
deriving DecidableEq, Repr

/-- A sequence: bus transfers in a fixed order, each continued by the byte it is answered, with the
assignments between them (spec/00_scope.md R6). A script is never held in the state. -/
inductive Script where
  | finish (f : Finish)
  /-- `u.x <- v`, then the rest. -/
  | assign (a : Assign) (p : Script)
  /-- `BusXfer(a, d)`, then the rest, which may use the byte answered. -/
  | xfer (a d : Byte) (k : Byte → Script)
  /-- `BusXfer(a, d)` again and again, `n` times made so far, until `stop` holds of the count and the byte;
  then the rest (spec/43_packet_tx.md R144). -/
  | poll (a d : Byte) (stop : Nat → Byte → Bool) (n : Nat) (k : Nat → Byte → Script)

/-- The address byte of a read: `WRITE_FLAG` cleared (spec/20_memory.md R41, R42). -/
def readAddress (c : UnitCfg) (addr : Addr) : Byte := addr.setWidth 8 &&& ~~~c.writeFlag

/-- The address byte of a write: `WRITE_FLAG` set (spec/20_memory.md R41, R43). -/
def writeAddress (c : UnitCfg) (addr : Addr) : Byte := c.writeFlag ||| addr.setWidth 8

/-- `BusRead(addr)` (spec/20_memory.md R42). -/
def busRead (c : UnitCfg) (addr : Addr) (k : Byte → Script) : Script :=
  .xfer (readAddress c addr) c.readDummy k

/-- `BusWrite(addr, v)`; the byte answered is discarded (spec/20_memory.md R43). -/
def busWrite (c : UnitCfg) (addr : Addr) (v : Byte) (p : Script) : Script :=
  .xfer (writeAddress c addr) v (fun _ => p)

/-- A loop of `BusRead(addr)` (spec/43_packet_tx.md R144). -/
def busPoll (c : UnitCfg) (addr : Addr) (stop : Nat → Byte → Bool) (k : Nat → Byte → Script) : Script :=
  .poll (readAddress c addr) c.readDummy stop 0 k

/-- `RMW(addr, mask, val)` (spec/40_register_access.md R102): one read, then one write. -/
def rmw (c : UnitCfg) (addr : Addr) (mask val : Byte) (k : Byte → Script) : Script :=
  busRead c addr fun old =>
    busWrite c addr (maskedUpdate old mask val) (k (maskedUpdate old mask val))

/-- `RMW` of one field. -/
def rmwField (c : UnitCfg) (addr : Addr) (f : Field) (v : Byte) (k : Byte → Script) : Script :=
  rmw c addr f.mask (fieldPlace f v) k

/-- `respond(OK, result, [])` (spec/30_encoding.md R74). -/
def respondOk (result : BitVec 32) : Script := .finish (.respond .ok result [])

/-- `raise st(info)` (spec/60_exceptions.md R180): nothing follows it. -/
def raise (st : Status) (info : BitVec 32) : Script := .finish (.respond st info [])

/-! ## Ending a sequence, errors -/

/-- The response of a command: it is produced once, and the unit is idle again (spec/30_encoding.md R74). -/
def State.respond (s : State) (st : Status) (result : BitVec 32) (data : List Byte) : State :=
  { s with seq := .idle, log := s.log ++ [.response st result data] }

/-- An event on the callback port, replacing one not taken (spec/60_exceptions.md R190); the handler sequence
is over (R191). -/
def State.emitCallback (s : State) (e : CallbackEvent) : State :=
  { s with seq := .idle, callbackPort := some e, log := s.log ++ [.callback e] }

/-- The end of a handler sequence (spec/60_exceptions.md R191): nothing is restored. -/
def State.leaveHandler (s : State) : State := { s with seq := .idle }

/-- End the sequence. -/
def Finish.complete (f : Finish) (s : State) : State :=
  match f with
  | .respond st result data => s.respond st result data
  | .callback bytes => s.emitCallback (.payload bytes)
  | .silent => s.leaveHandler

/-- `BusError` (spec/20_memory.md R44): a command answers `ERR_BUS` (spec/60_exceptions.md R182), a handler
sequence emits `IrqAbort(ERR_BUS)` and no callback (R192). -/
def State.busFail (s : State) : State :=
  match s.seq with
  | .idle => s
  | .fg _ _ => s.respond .errBus 0 []
  | .irq _ => s.emitCallback (.irqAbort .errBus)

/-! ## The outside world -/

/-- A rising edge: latched while the callback is armed, else nothing (spec/60_exceptions.md R187). -/
def State.latchEdge (s : State) : State :=
  if s.cbArmed then { s with irqPending := true } else s

/-- The host presents a command (spec/30_encoding.md R70, R72). -/
def State.present (s : State) (w : CmdWord) (bytes : List Byte) : State :=
  { s with cmdWords := s.cmdWords ++ [w], cmdBytes := s.cmdBytes ++ bytes }

/-- The host takes the event on the callback port (spec/60_exceptions.md R190). -/
def State.takeCallback (s : State) : State := { s with callbackPort := none }

/-- `rst` (spec/70_reset_and_hazards.md R210): every element of the unit's state takes its reset value, a
`disarm` request is issued, no transfer is made. What the outside world does, what it has seen and the parameters
are not the unit's state and stay (log entry 6). -/
def State.applyReset (s : State) : State :=
  { State.reset with
    log := s.log ++ [.disarm], inputs := s.inputs, cmdWords := s.cmdWords, cmdBytes := s.cmdBytes, cfg := s.cfg }

/-! ## Running a script -/

/-- The trail with one more byte (spec/10_state.md R19). -/
def Seq.push (q : Seq) (b : Byte) : Seq :=
  match q with
  | .idle => .idle
  | .fg cmd trail => .fg cmd (trail ++ [b])
  | .irq trail => .irq (trail ++ [b])

/-- A transfer that was answered with a byte. -/
def State.transferred (s : State) (a d b : Byte) : State :=
  { s with seq := s.seq.push b, log := s.log ++ [.xfer a d (.byte b)] }

/-- The transfer a script waits for, none where it has ended. -/
def Script.request : Script → Option (Byte × Byte)
  | .finish _ => none
  | .assign _ p => p.request
  | .xfer a d _ => some (a, d)
  | .poll a d _ _ _ => some (a, d)

/-- The rest of a script after its transfer is answered `b`. -/
def Script.feed (p : Script) (b : Byte) : Script :=
  match p with
  | .finish f => .finish f
  | .assign a p => .assign a p
  | .xfer _ _ k => k b
  | .poll a d stop n k => if stop (n + 1) b then k (n + 1) b else .poll a d stop (n + 1) k

/-- Carry out the assignments a script begins with. -/
def Script.settle : Script → State → Script × State
  | .finish f, s => (.finish f, s)
  | .assign a p, s => p.settle (a.apply s)
  | .xfer a d k, s => (.xfer a d k, s)
  | .poll a d stop n k, s => (.poll a d stop n k, s)

/-- Skip the assignments a script begins with: they have been carried out already. -/
def Script.skip : Script → Script
  | .finish f => .finish f
  | .assign _ p => p.skip
  | .xfer a d k => .xfer a d k
  | .poll a d stop n k => .poll a d stop n k

/-- The script that is left when the trail has been answered (spec/10_state.md R19: the position as the
remaining transfers). -/
def Script.residual (p : Script) : List Byte → Script
  | [] => p.skip
  | b :: trail => Script.residual (p.skip.feed b) trail

/-- End the sequence if the script has ended; else it waits. -/
def Script.close (p : Script) (s : State) : State :=
  match p with
  | .finish f => f.complete s
  | .assign _ _ => s
  | .xfer _ _ _ => s
  | .poll _ _ _ _ _ => s

/-- Run a settled script against the inputs: each transfer takes the next answer; edges, commands presented and
callbacks taken land between transfers; `BusError` and `rst` cut the sequence short; where the inputs run out the
unit waits for the answer (spec/20_memory.md R40, R44, R57, spec/60_exceptions.md R187, spec/70_reset_and_hazards.md
R210). -/
def runScript : List Input → Script → State → State
  | [], p, s => p.close { s with inputs := [] }
  | e :: es, p, s =>
    match p.request with
    | none => p.close { s with inputs := e :: es }
    | some (a, d) =>
      match e with
      | .bus (.byte b) =>
        let next := (p.feed b).settle (s.transferred a d b)
        runScript es next.1 next.2
      | .bus .error => State.busFail { s with inputs := es, log := s.log ++ [.xfer a d .error] }
      | .rst => State.applyReset { s with inputs := es, log := s.log ++ [.abandoned a d] }
      | .dio0Rise => runScript es p s.latchEdge
      | .command w bytes => runScript es p (s.present w bytes)
      | .takeCallback => runScript es p s.takeCallback

/-- Start a sequence: its leading assignments, then its transfers. -/
def startScript (p : Script) (s : State) : State :=
  let first := p.settle s
  runScript s.inputs first.1 first.2

/-- Go on with a sequence that waits. -/
def resumeScript (p : Script) (trail : List Byte) (s : State) : State :=
  runScript s.inputs (p.residual trail) s

/-! ## Running a command -/

/-- Whether the lifecycle lets the command run: `INIT` always, every other only when `READY`
(spec/60_exceptions.md R184, spec/10_state.md R12). -/
def lifecycleAllows (i : Instr) (s : State) : Bool := decide (i = .init) || decide (s.ustate = .ready)

/-- Run one command whose sequence is `p`, after the checks of spec/30_encoding.md R79 in their order: operand
range, lifecycle, then the sequence from `u.seq = FG(cmd, 0)` (R70). -/
def runCommand (i : Instr) (p : Script) (s : State) : Host.Outcome State Fault Refusal :=
  if i.wf s.cfg then
    if lifecycleAllows i s then .next (startScript p { s with seq := .fg i [] })
    else .next (s.respond .errState 0 [])
  else .next (s.respond .errArg 0 [])

end Sys2Proof.Machine
end

