-- ==== Sys2Proof/Machine/ModeControl.lean ====
section
/-! DEFINITION. Operating-mode control: spec/41_mode_control.md. -/

namespace Sys2Proof.Machine

/-- `SetMode(sel)` (spec/41_mode_control.md R111). -/
def setMode (c : UnitCfg) (sel : BitVec 3) (p : Script) : Script :=
  rmw c c.chip.opMode c.chip.mode.mask (selectorBits c sel) fun w => .assign (.modeShadow w) p

/-- `SetLongRange(en)` (spec/41_mode_control.md R113): to SLEEP, change the long-range bit there, restore the
selector read at the start. -/
def setLongRange (c : UnitCfg) (en : Bool) (p : Script) : Script :=
  busRead c c.chip.opMode fun m0 =>
    let w1 := withSelector c m0 c.sel.sleep
    let w2 := withLongRange c w1 en
    let w3 := maskedUpdate w2 c.chip.mode.mask (m0 &&& c.chip.mode.mask)
    busWrite c c.chip.opMode w1 <| .assign (.modeShadow w1) <|
    busWrite c c.chip.opMode w2 <| .assign (.modeShadow w2) <|
    busWrite c c.chip.opMode w3 <| .assign (.modeShadow w3) p

/-- The sequence of `SETMODE sel` (spec/41_mode_control.md R110). -/
def seqSetmode (c : UnitCfg) (sel : BitVec 3) : Script := setMode c sel (respondOk 0)

/-- `SETMODE sel` (spec/41_mode_control.md R110). -/
def execSetmode (sel : BitVec 3) (s : State) : Host.Outcome State Fault Refusal :=
  runCommand (.setmode sel) (seqSetmode s.cfg sel) s

/-- The sequence of `SETLR en` (spec/41_mode_control.md R112). -/
def seqSetlr (c : UnitCfg) (en : Bool) : Script := setLongRange c en (respondOk 0)

/-- `SETLR en` (spec/41_mode_control.md R112). -/
def execSetlr (en : Bool) (s : State) : Host.Outcome State Fault Refusal :=
  runCommand (.setlr en) (seqSetlr s.cfg en) s

end Sys2Proof.Machine
end

