-- ==== Sys2Proof/Machine/RfConfig.lean ====
section
/-! DEFINITION. The ten RF configuration setters: spec/42_rf_config.md. -/

namespace Sys2Proof.Machine

/-- The sequence of `SETFREQ f` (spec/42_rf_config.md R121): three plain writes, most significant byte first
(spec/20_memory.md R53), then the low-frequency bit. -/
def seqSetfreq (c : UnitCfg) (f : BitVec 32) : Script :=
  let code := freqCode c f
  busWrite c c.chip.frfMsb (code.extractLsb' 16 8) <|
  busWrite c c.chip.frfMid (code.extractLsb' 8 8) <|
  busWrite c c.chip.frfLsb (code.extractLsb' 0 8) <|
  rmw c c.chip.opMode c.chip.lowFreq.mask (lowFreqBits c f) fun w =>
    .assign (.modeShadow w) <| .assign (.freqShadow f) <| respondOk 0

/-- `SETFREQ f` (spec/42_rf_config.md R121). -/
def execSetfreq (f : BitVec 32) (s : State) : Host.Outcome State Fault Refusal :=
  runCommand (.setfreq f) (seqSetfreq s.cfg f) s

/-- The sequence of `SETTXPWR level, boost` (spec/42_rf_config.md R122): one plain write. -/
def seqSettxpwr (c : UnitCfg) (level : Byte) (boost : Bool) : Script :=
  busWrite c c.chip.paConfig (powerByte c level boost) (respondOk 0)

/-- `SETTXPWR level, boost` (spec/42_rf_config.md R122). -/
def execSettxpwr (level : Byte) (boost : Bool) (s : State) : Host.Outcome State Fault Refusal :=
  runCommand (.settxpwr level boost) (seqSettxpwr s.cfg level boost) s

/-- The sequence of `SETBW b` (spec/42_rf_config.md R124). -/
def seqSetbw (c : UnitCfg) (b : BitVec 32) : Script :=
  rmwField c c.chip.modemConfig1 c.chip.bandwidth (BitVec.ofNat 8 (quantize c b)) fun _ => respondOk 0

/-- `SETBW b` (spec/42_rf_config.md R124). -/
def execSetbw (b : BitVec 32) (s : State) : Host.Outcome State Fault Refusal :=
  runCommand (.setbw b) (seqSetbw s.cfg b) s

/-- The sequence of `SETSF sf` (spec/42_rf_config.md R125). -/
def seqSetsf (c : UnitCfg) (sf : BitVec 4) : Script :=
  rmwField c c.chip.modemConfig2 c.chip.spreadingFactor (sf.setWidth 8) fun _ => respondOk 0

/-- `SETSF sf` (spec/42_rf_config.md R125). -/
def execSetsf (sf : BitVec 4) (s : State) : Host.Outcome State Fault Refusal :=
  runCommand (.setsf sf) (seqSetsf s.cfg sf) s

/-- The read-modify-write of the low-data-rate flag (spec/42_rf_config.md R126). -/
def writeLdr (c : UnitCfg) (on : Byte) : Script :=
  rmwField c c.chip.modemConfig3 c.chip.lowDataRateOptimize on fun _ => respondOk 0

/-- The sequence of `SETLDR ldr` (spec/42_rf_config.md R126): 2 reads the spreading factor back first. -/
def seqSetldr (c : UnitCfg) (ldr : BitVec 2) : Script :=
  if ldr = 2 then busRead c c.chip.modemConfig2 fun s => writeLdr c (bitByte (ldrAuto c s))
  else writeLdr c (ldr.setWidth 8)

/-- `SETLDR ldr` (spec/42_rf_config.md R126). -/
def execSetldr (ldr : BitVec 2) (s : State) : Host.Outcome State Fault Refusal :=
  runCommand (.setldr ldr) (seqSetldr s.cfg ldr) s

/-- The sequence of `SETCR den` (spec/42_rf_config.md R127). -/
def seqSetcr (c : UnitCfg) (den : BitVec 4) : Script :=
  rmwField c c.chip.modemConfig1 c.chip.codingRate (codingRateCode den) fun _ => respondOk 0

/-- `SETCR den` (spec/42_rf_config.md R127). -/
def execSetcr (den : BitVec 4) (s : State) : Host.Outcome State Fault Refusal :=
  runCommand (.setcr den) (seqSetcr s.cfg den) s

/-- The sequence of `SETPREAMBLE len` (spec/42_rf_config.md R128): most significant byte first. -/
def seqSetpreamble (c : UnitCfg) (len : BitVec 16) : Script :=
  busWrite c c.chip.preambleMsb (len.extractLsb' 8 8) <|
  busWrite c c.chip.preambleLsb (len.extractLsb' 0 8) (respondOk 0)

/-- `SETPREAMBLE len` (spec/42_rf_config.md R128). -/
def execSetpreamble (len : BitVec 16) (s : State) : Host.Outcome State Fault Refusal :=
  runCommand (.setpreamble len) (seqSetpreamble s.cfg len) s

/-- The sequence of `SETSYNC sw` (spec/42_rf_config.md R129). -/
def seqSetsync (c : UnitCfg) (sw : Byte) : Script :=
  busWrite c c.chip.syncWord sw (respondOk 0)

/-- `SETSYNC sw` (spec/42_rf_config.md R129). -/
def execSetsync (sw : Byte) (s : State) : Host.Outcome State Fault Refusal :=
  runCommand (.setsync sw) (seqSetsync s.cfg sw) s

/-- `SetImplicit(b)` (spec/42_rf_config.md R130). -/
def setImplicit (c : UnitCfg) (b : Bool) (p : Script) : Script :=
  rmwField c c.chip.modemConfig1 c.chip.implicitHeader (bitByte b) fun _ => .assign (.implicitShadow b) p

/-- The sequence of `SETIMPL en` (spec/42_rf_config.md R131). -/
def seqSetimpl (c : UnitCfg) (en : Bool) : Script := setImplicit c en (respondOk 0)

/-- `SETIMPL en` (spec/42_rf_config.md R131). -/
def execSetimpl (en : Bool) (s : State) : Host.Outcome State Fault Refusal :=
  runCommand (.setimpl en) (seqSetimpl s.cfg en) s

/-- The sequence of `SETCRC en` (spec/42_rf_config.md R132). -/
def seqSetcrc (c : UnitCfg) (en : Bool) : Script :=
  rmwField c c.chip.modemConfig2 c.chip.payloadCrcOn (bitByte en) fun _ => respondOk 0

/-- `SETCRC en` (spec/42_rf_config.md R132). -/
def execSetcrc (en : Bool) (s : State) : Host.Outcome State Fault Refusal :=
  runCommand (.setcrc en) (seqSetcrc s.cfg en) s

end Sys2Proof.Machine
end

