-- ==== Sys2Proof/Machine/Initialisation.lean ====
section
/-! DEFINITION. Initialisation: spec/45_init.md. -/

namespace Sys2Proof.Machine

/-- The sequence of `INIT` (spec/45_init.md R170, R171). -/
def seqInit (c : UnitCfg) : Script :=
  .assign (.ustate .uninit) <|
  .assign (.cbArmed false) <| .assign (.irqPending false) <| .assign .disarm <|
  busRead c c.chip.version fun v =>
    if versionAccepted c v then
      setLongRange c true <|
      busWrite c c.chip.fifoTxBase c.fifoTxBase <|
      busWrite c c.chip.fifoRxBase c.fifoRxBase <|
      setImplicit c false <|
      setMode c c.sel.standby <|
      .assign (.ustate .ready) (respondOk 0)
    else .assign (.ustate .failed) <| raise .errVersion (v.setWidth 32)

/-- `INIT` (spec/45_init.md R171), accepted in every lifecycle state. -/
def execInit (s : State) : Host.Outcome State Fault Refusal :=
  runCommand .init (seqInit s.cfg) s

end Sys2Proof.Machine
end

