-- ==== Sys2Proof/Machine/PacketRx.lean ====
section
/-! DEFINITION. Packet reception, payload extraction, signal read-out: spec/44_packet_rx.md. -/

namespace Sys2Proof.Machine

/-- `HeaderForSize(size)` (spec/44_packet_rx.md R151). -/
def headerForSize (c : UnitCfg) (size : Byte) (p : Script) : Script :=
  if size = 0 then setImplicit c false p
  else setImplicit c true <| busWrite c c.chip.payloadLength size p

/-- The sequence of `RECEIVE size` (spec/44_packet_rx.md R150). -/
def seqReceive (c : UnitCfg) (size : Byte) : Script :=
  headerForSize c size <| setMode c c.sel.rxCont (respondOk 0)

/-- `RECEIVE size` (spec/44_packet_rx.md R150). -/
def execReceive (size : Byte) (s : State) : Host.Outcome State Fault Refusal :=
  runCommand (.receive size) (seqReceive s.cfg size) s

/-- The sequence of `RXPOLL size` (spec/44_packet_rx.md R152). -/
def seqRxpoll (c : UnitCfg) (size : Byte) : Script :=
  headerForSize c size <|
  busRead c c.chip.irqFlags fun v =>
    busWrite c c.chip.irqFlags v <|
    if rxDoneAlone c v then respondOk 1
    else busRead c c.chip.opMode fun m =>
      if fieldGet c.chip.mode m = c.sel.rxSingle.setWidth 8 then respondOk 0
      else setMode c c.sel.rxSingle (respondOk 0)

/-- `RXPOLL size` (spec/44_packet_rx.md R152). -/
def execRxpoll (size : Byte) (s : State) : Host.Outcome State Fault Refusal :=
  runCommand (.rxpoll size) (seqRxpoll s.cfg size) s

/-- `n` reads of the FIFO, after the bytes `got` (spec/44_packet_rx.md R155). -/
def readFifo (c : UnitCfg) (k : List Byte → Script) : Nat → List Byte → Script
  | 0, got => k got
  | n + 1, got => busRead c c.chip.fifo fun b => readFifo c k n (got ++ [b])

/-- The register that tells the payload length (spec/44_packet_rx.md R155). -/
def lengthRegister (c : UnitCfg) (implicit : Bool) : Addr :=
  if implicit then c.chip.payloadLength else c.chip.rxNbBytes

/-- `ExtractPayload()` (spec/44_packet_rx.md R155): pointer, then length, then data; the header mode is
`u.implicit_shadow`. -/
def extractPayload (c : UnitCfg) (implicit : Bool) (k : List Byte → Script) : Script :=
  busRead c c.chip.fifoRxCurrent fun a =>
    busWrite c c.chip.fifoAddrPtr a <|
    busRead c (lengthRegister c implicit) fun len => readFifo c k len.toNat []

/-- The sequence of `RDPAYLOAD` (spec/44_packet_rx.md R156). -/
def seqRdpayload (c : UnitCfg) (implicit : Bool) : Script :=
  extractPayload c implicit fun p => .finish (.respond .ok (BitVec.ofNat 32 p.length) p)

/-- `RDPAYLOAD` (spec/44_packet_rx.md R156). -/
def execRdpayload (s : State) : Host.Outcome State Fault Refusal :=
  runCommand .rdpayload (seqRdpayload s.cfg s.implicitShadow) s

/-- The sequence of `PKTRSSI` (spec/44_packet_rx.md R158): without a frequency shadow, `ERR_STATE` before any
transfer. -/
def seqPktrssi (c : UnitCfg) (freq : Option (BitVec 32)) : Script :=
  match freq with
  | none => raise .errState 0
  | some f => busRead c c.chip.pktRssi fun raw => respondOk (rssiResult c f raw)

/-- `PKTRSSI` (spec/44_packet_rx.md R158). -/
def execPktrssi (s : State) : Host.Outcome State Fault Refusal :=
  runCommand .pktrssi (seqPktrssi s.cfg s.freqShadow) s

/-- The sequence of `PKTSNR` (spec/44_packet_rx.md R160). -/
def seqPktsnr (c : UnitCfg) : Script :=
  busRead c c.chip.pktSnr fun raw => respondOk (snrResult raw)

/-- `PKTSNR` (spec/44_packet_rx.md R160). -/
def execPktsnr (s : State) : Host.Outcome State Fault Refusal :=
  runCommand .pktsnr (seqPktsnr s.cfg) s

/-- The sequence of `ONRECV en` (spec/44_packet_rx.md R162): no bus transfer. -/
def seqOnrecv (en : Bool) : Script :=
  if en then .assign (.cbArmed true) <| .assign .arm (respondOk 0)
  else .assign (.cbArmed false) <| .assign (.irqPending false) <| .assign .disarm (respondOk 0)

/-- `ONRECV en` (spec/44_packet_rx.md R162). -/
def execOnrecv (en : Bool) (s : State) : Host.Outcome State Fault Refusal :=
  runCommand (.onrecv en) (seqOnrecv en) s

end Sys2Proof.Machine
end

