-- ==== Sys2Proof/Machine/Interrupt.lean ====
section
/-! DEFINITION. The receive interrupt: the handler sequence, its entry and its return
(spec/60_exceptions.md R186 to R192). -/

namespace Sys2Proof.Machine

/-- The handler sequence after its entry (spec/60_exceptions.md R189): the flags read are written back; only
the CRC-error flag is tested. -/
def seqHandler (c : UnitCfg) (implicit : Bool) : Script :=
  busRead c c.chip.irqFlags fun v =>
    busWrite c c.chip.irqFlags v <|
    if crcClear c v then extractPayload c implicit fun p => .finish (.callback p)
    else .finish .silent

/-- Entering the handler (spec/60_exceptions.md R189): the pending bit is cleared, `u.seq = IRQ(0)`; nothing is
saved and no mode or mask changes. The return is `State.leaveHandler` (R191). -/
def State.enterHandler (s : State) : State := { s with irqPending := false, seq := .irq [] }

/-- The handler sequence starts when the unit is idle and an edge is pending (spec/60_exceptions.md R188). -/
def runHandler (s : State) : State :=
  startScript (seqHandler s.cfg s.implicitShadow) s.enterHandler

end Sys2Proof.Machine
end

