-- ==== Sys2Proof/Machine/PacketTx.lean ====
section
/-! DEFINITION. Packet transmission: spec/43_packet_tx.md. -/

namespace Sys2Proof.Machine

/-- The sequence of `BEGINPKT` (spec/43_packet_tx.md R140). -/
def seqBeginpkt (c : UnitCfg) : Script :=
  setMode c c.sel.standby <|
  busWrite c c.chip.fifoAddrPtr c.fifoTxBase <|
  busWrite c c.chip.payloadLength 0x00 (respondOk 0)

/-- `BEGINPKT` (spec/43_packet_tx.md R140). -/
def execBeginpkt (s : State) : Host.Outcome State Fault Refusal :=
  runCommand .beginpkt (seqBeginpkt s.cfg) s

/-- The bytes go to the FIFO one at a time, in order (spec/43_packet_tx.md R142). -/
def writeFifo (c : UnitCfg) (bytes : List Byte) (p : Script) : Script :=
  bytes.foldr (fun b rest => busWrite c c.chip.fifo b rest) p

/-- The sequence of `WRITE n, bytes` (spec/43_packet_tx.md R142): the queued length is the chip's; the length
register is written once, after the bytes. -/
def seqWrite (c : UnitCfg) (data : List Byte) : Script :=
  busRead c c.chip.payloadLength fun cur =>
    let k := acceptedCount c cur data.length
    writeFifo c (data.take k) <|
    busWrite c c.chip.payloadLength (BitVec.ofNat 8 (cur.toNat + k)) (respondOk (BitVec.ofNat 32 k))

/-- `WRITE n, bytes` (spec/43_packet_tx.md R142). Its data bytes left the stream when the word was accepted. -/
def execWrite (data : List Byte) (s : State) : Host.Outcome State Fault Refusal :=
  runCommand (.write data) (seqWrite s.cfg data) s

/-- What follows the last flag read of `ENDPKT` (spec/43_packet_tx.md R144). -/
def afterPoll (c : UnitCfg) (v : Byte) : Script :=
  if txDoneSeen c v then
    busWrite c c.chip.irqFlags c.chip.txDone.mask <|
    .assign (.modeSelector c.sel.standby) (respondOk 0)
  else raise .errTimeout 0

/-- The sequence of `ENDPKT` (spec/43_packet_tx.md R144): TX-done is tested before the poll limit. -/
def seqEndpkt (c : UnitCfg) : Script :=
  setMode c c.sel.tx <|
  busPoll c c.chip.irqFlags (fun k v => txDoneSeen c v || pollLimitReached c k) fun _ v => afterPoll c v

/-- `ENDPKT` (spec/43_packet_tx.md R144). -/
def execEndpkt (s : State) : Host.Outcome State Fault Refusal :=
  runCommand .endpkt (seqEndpkt s.cfg) s

end Sys2Proof.Machine
end

