-- ==== Sys2Proof/Machine/RegisterAccess.lean ====
section
/-! DEFINITION. Raw register access: spec/40_register_access.md. -/

namespace Sys2Proof.Machine

/-- The sequence of `RDREG addr` (spec/40_register_access.md R100). -/
def seqRdreg (c : UnitCfg) (addr : Addr) : Script :=
  busRead c addr fun v => respondOk (v.setWidth 32)

/-- `RDREG addr` (spec/40_register_access.md R100). -/
def execRdreg (addr : Addr) (s : State) : Host.Outcome State Fault Refusal :=
  runCommand (.rdreg addr) (seqRdreg s.cfg addr) s

/-- The sequence of `WRREG addr, value`: a raw write, no shadow follows (spec/40_register_access.md R101). -/
def seqWrreg (c : UnitCfg) (addr : Addr) (value : Byte) : Script :=
  busWrite c addr value (respondOk 0)

/-- `WRREG addr, value` (spec/40_register_access.md R101). -/
def execWrreg (addr : Addr) (value : Byte) (s : State) : Host.Outcome State Fault Refusal :=
  runCommand (.wrreg addr value) (seqWrreg s.cfg addr value) s

end Sys2Proof.Machine
end

