-- ==== Sys2Proof/Machine/Sequencer.lean ====
section
/-! DEFINITION. What the unit does between commands and inside a sequence that waits: taking the next command
from the port, resuming, absorbing what the outside world does while idle, one transfer at a time, and the derived
outputs. -/

namespace Sys2Proof.Machine

/-- The sequence of each command, for resuming one that waits. The state gives the parameters and the two
shadows a sequence reads, which no sequence that reads them writes. -/
def sequenceOf (i : Instr) (s : State) : Script :=
  match i with
  | .init => seqInit s.cfg
  | .rdreg addr => seqRdreg s.cfg addr
  | .wrreg addr value => seqWrreg s.cfg addr value
  | .setmode sel => seqSetmode s.cfg sel
  | .setlr en => seqSetlr s.cfg en
  | .setfreq f => seqSetfreq s.cfg f
  | .settxpwr level boost => seqSettxpwr s.cfg level boost
  | .setbw b => seqSetbw s.cfg b
  | .setsf sf => seqSetsf s.cfg sf
  | .setldr ldr => seqSetldr s.cfg ldr
  | .setcr den => seqSetcr s.cfg den
  | .setpreamble len => seqSetpreamble s.cfg len
  | .setsync sw => seqSetsync s.cfg sw
  | .setcrc en => seqSetcrc s.cfg en
  | .setimpl en => seqSetimpl s.cfg en
  | .beginpkt => seqBeginpkt s.cfg
  | .write data => seqWrite s.cfg data
  | .endpkt => seqEndpkt s.cfg
  | .receive size => seqReceive s.cfg size
  | .rxpoll size => seqRxpoll s.cfg size
  | .rdpayload => seqRdpayload s.cfg s.implicitShadow
  | .pktrssi => seqPktrssi s.cfg s.freqShadow
  | .pktsnr => seqPktsnr s.cfg
  | .onrecv en => seqOnrecv en

/-- The script that is left of the active sequence, none while idle (spec/10_state.md R19). -/
def remaining (s : State) : Option Script :=
  match s.seq with
  | .idle => none
  | .fg cmd trail => some ((sequenceOf cmd s).residual trail)
  | .irq trail => some ((seqHandler s.cfg s.implicitShadow).residual trail)

/-- Go on with a command that waits. -/
def resumeCommand (cmd : Instr) (trail : List Byte) (s : State) : State :=
  resumeScript (sequenceOf cmd s) trail s

/-- Go on with a handler sequence that waits. -/
def resumeHandler (trail : List Byte) (s : State) : State :=
  resumeScript (seqHandler s.cfg s.implicitShadow) trail s

/-- What the command port gives an idle unit. -/
inductive Fetched where
  /-- No command is presented whole. -/
  | nothing
  /-- A command, with the state after its word and its data bytes left the port. -/
  | command (i : Instr) (s : State)
  /-- A word that is refused before its operands are looked at, with its status. -/
  | rejected (st : Status) (s : State)
deriving DecidableEq, Repr

/-- Take a command word and its `n` bytes from the port (spec/30_encoding.md R70, R72). -/
def State.takeCommand (s : State) (n : Nat) : State :=
  { s with cmdWords := s.cmdWords.tail, cmdBytes := s.cmdBytes.drop n }

/-- The next command of the port: decoding, with `ERR_OP` before `ERR_ARG` (spec/30_encoding.md R77 to R79). The
data bytes leave the stream in every case (R72, R78). A `WRITE` whose bytes are not all there waits (log entry 5). -/
def fetchCommand (s : State) : Fetched :=
  match s.cmdWords with
  | [] => .nothing
  | w :: _ =>
    match decode s.cfg.op w s.cmdBytes with
    | .ok i => .command i (s.takeCommand (dataCount s.cfg.op w))
    | .illegalOp => .rejected .errOp (s.takeCommand 0)
    | .reservedBits => .rejected .errArg (s.takeCommand (dataCount s.cfg.op w))
    | .dataMissing => .nothing

/-- The next input that is not a bus answer, and the inputs without it: an answer waits for the transfer that
asks for it (log entry 1). -/
def nextEvent : List Input → Option (Input × List Input)
  | [] => none
  | .bus r :: es =>
    match nextEvent es with
    | none => none
    | some (e, rest) => some (e, .bus r :: rest)
  | .dio0Rise :: es => some (.dio0Rise, es)
  | .rst :: es => some (.rst, es)
  | .command w bytes :: es => some (.command w bytes, es)
  | .takeCallback :: es => some (.takeCallback, es)

/-- What an input does to a unit that is between sequences. -/
def absorb (e : Input) (s : State) : State :=
  match e with
  | .bus _ => s
  | .dio0Rise => s.latchEdge
  | .rst => s.applyReset
  | .command w bytes => s.present w bytes
  | .takeCallback => s.takeCallback

/-- `rst` is asserted now: it comes before everything else the inputs hold. An idle unit takes it before it starts a
handler or accepts a command (spec/70_reset_and_hazards.md R210, log entry 6). -/
def rstAsserted (s : State) : Bool := decide (s.inputs.head? = some .rst)

/-- An idle unit with no command to run waits; the outside world acts (spec/10_state.md R31). -/
def idleStep (s : State) : State :=
  match nextEvent s.inputs with
  | none => s
  | some (e, rest) => absorb e { s with inputs := rest }

/-! ## One transfer at a time (spec/20_memory.md R45) -/

/-- The inputs up to and with the first answer of the bus, and those after it. -/
def untilAnswer : List Input → List Input × List Input
  | [] => ([], [])
  | .bus r :: es => ([.bus r], es)
  | .dio0Rise :: es => (.dio0Rise :: (untilAnswer es).1, (untilAnswer es).2)
  | .rst :: es => (.rst :: (untilAnswer es).1, (untilAnswer es).2)
  | .command w bytes :: es => (.command w bytes :: (untilAnswer es).1, (untilAnswer es).2)
  | .takeCallback :: es => (.takeCallback :: (untilAnswer es).1, (untilAnswer es).2)

/-- Only the inputs of the next transfer are there: a step makes at most one. -/
def State.forOneTransfer (s : State) : State := { s with inputs := (untilAnswer s.inputs).1 }

/-- The inputs that come after the transfer are there again. -/
def State.giveBack (t : State) (later : List Input) : State := { t with inputs := t.inputs ++ later }

/-- Run the handler or a sequence for one transfer (spec/20_memory.md R45). -/
def atomically (run : State → State) (s : State) : State :=
  (run s.forOneTransfer).giveBack (untilAnswer s.inputs).2

/-- Run a command for one transfer (spec/20_memory.md R45). -/
def atomicallyExec (run : State → Host.Outcome State Fault Refusal) (s : State) : Host.Outcome State Fault Refusal :=
  match run s.forOneTransfer with
  | .next t => .next (t.giveBack (untilAnswer s.inputs).2)
  | .fault e => .fault e
  | .refused r => .refused r

/-! ## Outputs that follow from the state (spec/10_state.md R32) -/

/-- The `ready` output of the command port (spec/30_encoding.md R70). -/
def State.ready (s : State) : Bool := decide (s.seq = .idle) && !s.irqPending

/-- The transfer the unit has issued and waits for (spec/20_memory.md R40, R45). -/
def busRequest (s : State) : Option (Byte × Byte) :=
  match remaining s with
  | none => none
  | some p => p.request

/-- What the status port shows (spec/10_state.md R32); `none` is an invalid shadow. -/
structure StatusPort where
  ustate : UState
  modeShadow : Option Byte
  freqShadow : Option (BitVec 32)
  implicitShadow : Bool
  cbArmed : Bool
  irqPending : Bool
deriving DecidableEq, Repr

/-- The status port (spec/10_state.md R32). -/
def State.statusPort (s : State) : StatusPort where
  ustate := s.ustate
  modeShadow := s.modeShadow
  freqShadow := s.freqShadow
  implicitShadow := s.implicitShadow
  cbArmed := s.cbArmed
  irqPending := s.irqPending

/-- The unit's view of the protocol state: the selector of the mode shadow (spec/10_state.md R23). -/
def State.pstate (s : State) : Option Byte := s.modeShadow.map (fieldGet s.cfg.chip.mode)

end Sys2Proof.Machine
end

