-- ==== Sys2Proof/Machine/Dispatch.lean ====
section
/-! DEFINITION. The meaning of each command: one arm per constructor of `Instr`. -/

namespace Sys2Proof.Machine

def exec (i : Instr) (s : State) : Host.Outcome State Fault Refusal :=
  match i with
  | .init => Sys2Proof.Machine.execInit s
  | .rdreg addr => Sys2Proof.Machine.execRdreg addr s
  | .wrreg addr value => Sys2Proof.Machine.execWrreg addr value s
  | .setmode sel => Sys2Proof.Machine.execSetmode sel s
  | .setlr en => Sys2Proof.Machine.execSetlr en s
  | .setfreq f => Sys2Proof.Machine.execSetfreq f s
  | .settxpwr level boost => Sys2Proof.Machine.execSettxpwr level boost s
  | .setbw b => Sys2Proof.Machine.execSetbw b s
  | .setsf sf => Sys2Proof.Machine.execSetsf sf s
  | .setldr ldr => Sys2Proof.Machine.execSetldr ldr s
  | .setcr den => Sys2Proof.Machine.execSetcr den s
  | .setpreamble len => Sys2Proof.Machine.execSetpreamble len s
  | .setsync sw => Sys2Proof.Machine.execSetsync sw s
  | .setcrc en => Sys2Proof.Machine.execSetcrc en s
  | .setimpl en => Sys2Proof.Machine.execSetimpl en s
  | .beginpkt => Sys2Proof.Machine.execBeginpkt s
  | .write data => Sys2Proof.Machine.execWrite data s
  | .endpkt => Sys2Proof.Machine.execEndpkt s
  | .receive size => Sys2Proof.Machine.execReceive size s
  | .rxpoll size => Sys2Proof.Machine.execRxpoll size s
  | .rdpayload => Sys2Proof.Machine.execRdpayload s
  | .pktrssi => Sys2Proof.Machine.execPktrssi s
  | .pktsnr => Sys2Proof.Machine.execPktsnr s
  | .onrecv en => Sys2Proof.Machine.execOnrecv en s

end Sys2Proof.Machine
end

