-- ==== Sys2Proof/Machine/Step.lean ====
section
/-! DEFINITION. One step of the unit, with at most one bus transfer: a pending edge is served before the next command,
a sequence that waits goes on (spec/20_memory.md R45, spec/30_encoding.md R70, spec/60_exceptions.md R188). -/

namespace Sys2Proof.Machine

/-- One step. A sequence that waits makes its next transfer. An idle unit takes an asserted reset first
(spec/70_reset_and_hazards.md R210), then starts the handler for a pending edge, then accepts the next command
(spec/60_exceptions.md R188), and else lets the outside world act. Each step makes at most one `BusXfer`
(spec/20_memory.md R45). -/
def step (s : State) : Host.Outcome State Fault Refusal :=
  match s.seq with
  | .fg cmd trail => .next (atomically (resumeCommand cmd trail) s)
  | .irq trail => .next (atomically (resumeHandler trail) s)
  | .idle =>
    if rstAsserted s then .next (idleStep s)
    else if s.irqPending then .next (atomically runHandler s)
    else
      match fetchCommand s with
      | .command i t => atomicallyExec (exec i) t
      | .rejected st t => .next (t.respond st 0 [])
      | .nothing => .next (idleStep s)

/-- The state in which the word is the next one on the command port of a unit that is ready to accept it
(spec/30_encoding.md R70); a `WRITE` word comes with its data bytes, zeros. A reset asserted now is lifted. -/
def State.withFetchWord (s : State) (nbits w : Nat) : State :=
  { s with
    seq := .idle
    irqPending := false
    inputs := s.inputs.dropWhile fun e => decide (e = .rst)
    cmdWords := tableWord nbits w :: s.cmdWords
    cmdBytes := List.replicate (dataCount s.cfg.op (tableWord nbits w)) 0 ++ s.cmdBytes }

end Sys2Proof.Machine
end

