-- ==== Sys2Proof/Machine/Assembly.lean ====
section
/-! DEFINITION. The textual form of commands and the pseudo-commands (spec/30_encoding.md R81 to R83). No step reads
this file: an assembler runs on the host's side. -/

namespace Sys2Proof.Machine

/-- The mnemonic of a command (spec/30_encoding.md R73). -/
def mnemonicOf : Instr → String
  | .init => "INIT"
  | .rdreg _ => "RDREG"
  | .wrreg _ _ => "WRREG"
  | .setmode _ => "SETMODE"
  | .setlr _ => "SETLR"
  | .setfreq _ => "SETFREQ"
  | .settxpwr _ _ => "SETTXPWR"
  | .setbw _ => "SETBW"
  | .setsf _ => "SETSF"
  | .setldr _ => "SETLDR"
  | .setcr _ => "SETCR"
  | .setpreamble _ => "SETPREAMBLE"
  | .setsync _ => "SETSYNC"
  | .setcrc _ => "SETCRC"
  | .setimpl _ => "SETIMPL"
  | .beginpkt => "BEGINPKT"
  | .write _ => "WRITE"
  | .endpkt => "ENDPKT"
  | .receive _ => "RECEIVE"
  | .rxpoll _ => "RXPOLL"
  | .rdpayload => "RDPAYLOAD"
  | .pktrssi => "PKTRSSI"
  | .pktsnr => "PKTSNR"
  | .onrecv _ => "ONRECV"

/-- The source's operation a command renders (spec/30_encoding.md R83). -/
def sourceOperation : Instr → String
  | .init => "initialization"
  | .rdreg _ => "readRegister"
  | .wrreg _ _ => "writeRegister"
  | .setmode _ => "setMode"
  | .setlr _ => "setLongRange"
  | .setfreq _ => "setFrequency"
  | .settxpwr _ _ => "setTxPower"
  | .setbw _ => "setSignalBandwidth"
  | .setsf _ => "setSpreadingFactor"
  | .setldr _ => "setLDR"
  | .setcr _ => "setCodingRate"
  | .setpreamble _ => "setPreambleLength"
  | .setsync _ => "setSyncWord"
  | .setcrc _ => "enableCRC"
  | .setimpl _ => "setImplicitHeader"
  | .beginpkt => "beginPacket"
  | .write _ => "write"
  | .endpkt => "endPacket"
  | .receive _ => "receive"
  | .rxpoll _ => "receivedPacket"
  | .rdpayload => "payload extraction"
  | .pktrssi => "packetRssi"
  | .pktsnr => "packetSnr"
  | .onrecv _ => "onReceive"

/-! ## Reading one line -/

/-- An operand as it is written. -/
inductive Operand where
  /-- A number without sign. -/
  | num (n : Nat)
  /-- A number behind a minus sign, which only `level` may carry (spec/30_encoding.md R81). -/
  | neg (n : Nat)
  /-- A double-quoted ASCII string (spec/30_encoding.md R81). -/
  | text (bytes : List Byte)
deriving DecidableEq, Repr

/-- The value of a digit in a base, none for another character. -/
def digitValue (base : Nat) (ch : Char) : Option Nat :=
  let n := ch.toNat
  let v := if 48 ≤ n ∧ n ≤ 57 then n - 48 else if 65 ≤ n ∧ n ≤ 70 then n - 55 else if 97 ≤ n ∧ n ≤ 102 then n - 87 else 16
  if v < base then some v else none

/-- The digits of a number, after the value `acc`. -/
def readDigits (base : Nat) : List Char → Nat → Option Nat
  | [], acc => some acc
  | ch :: rest, acc =>
    match digitValue base ch with
    | none => none
    | some v => readDigits base rest (acc * base + v)

/-- A number without sign: decimal, or hexadecimal with `0x` (spec/30_encoding.md R81). -/
def readNatural : List Char → Option Nat
  | [] => none
  | ['0', 'x'] => none
  | '0' :: 'x' :: digits => readDigits 16 digits 0
  | digits => readDigits 10 digits 0

/-- The bytes of a string up to its closing quote, which ends the operand. -/
def readText : List Char → Option (List Byte)
  | [] => none
  | ['"'] => some []
  | ch :: rest =>
    if ch.toNat < 128 ∧ ch ≠ '"' then
      match readText rest with
      | none => none
      | some bytes => some (BitVec.ofNat 8 ch.toNat :: bytes)
    else none

/-- One operand without spaces around it. -/
def readOperand : List Char → Option Operand
  | '"' :: rest => (readText rest).map .text
  | '-' :: rest => (readNatural rest).map .neg
  | chars => (readNatural chars).map .num

/-- The line without its comment: `;` starts one, but inside a string it does not. -/
def dropComment : Bool → List Char → List Char
  | _, [] => []
  | quoted, ch :: rest =>
    if ch = ';' ∧ quoted = false then []
    else if ch = '"' then ch :: dropComment (!quoted) rest
    else ch :: dropComment quoted rest

/-- Drop leading spaces. -/
def trimLeft : List Char → List Char
  | [] => []
  | ch :: rest => if ch = ' ' then trimLeft rest else ch :: rest

/-- Drop spaces on both sides. -/
def trim (chars : List Char) : List Char := (trimLeft (trimLeft chars).reverse).reverse

/-- Split at commas outside strings; the pieces are in order. -/
def splitCommas : Bool → List Char → List Char → List (List Char)
  | _, piece, [] => [piece.reverse]
  | quoted, piece, ch :: rest =>
    if ch = ',' ∧ quoted = false then piece.reverse :: splitCommas quoted [] rest
    else if ch = '"' then splitCommas (!quoted) (ch :: piece) rest
    else splitCommas quoted (ch :: piece) rest

/-- All operands, or none if one is ill written. -/
def readOperands : List (List Char) → Option (List Operand)
  | [] => some []
  | piece :: rest =>
    match readOperand (trim piece), readOperands rest with
    | some o, some os => some (o :: os)
    | _, _ => none

/-- The mnemonic of a line: its characters up to the first space. -/
def takeMnemonic : List Char → List Char × List Char
  | [] => ([], [])
  | ch :: rest =>
    if ch = ' ' then ([], rest)
    else
      let tail := takeMnemonic rest
      (ch :: tail.1, tail.2)

/-! ## From mnemonic and operands to commands -/

/-- A number that fits `w` unsigned bits. -/
def fits (w n : Nat) : Option (BitVec w) := if n < 2 ^ w then some (BitVec.ofNat w n) else none

/-- An operand that fits 8 bits as two's complement: `level` (spec/30_encoding.md R73). -/
def fitsLevel : Operand → Option Byte
  | .num n => if n ≤ 127 then some (BitVec.ofNat 8 n) else none
  | .neg n => if n ≤ 128 then some (BitVec.ofInt 8 (-(n : Int))) else none
  | .text _ => none

/-- A one-bit operand. -/
def fitsBit (n : Nat) : Option Bool := (fits 1 n).map fun b => decide (b = 1)

/-- A data byte, written as a number. -/
def fitsByte : Operand → Option Byte
  | .num n => fits 8 n
  | .neg _ => none
  | .text _ => none

/-- The payload of `WRITE` and `SEND`: one string, or bytes as numbers, and no mixture of the two
(spec/30_encoding.md R81, log entry 16). -/
def payloadOf : List Operand → Option (List Byte)
  | [.text bytes] => some bytes
  | ops => ops.mapM fitsByte

/-- The `WRITE` of some bytes; a line with more of them than `n` can count is refused (spec/30_encoding.md R73,
log entry 16). -/
def writeOf (bytes : List Byte) : Option Instr :=
  if (Instr.write bytes).encodable then some (.write bytes) else none

/-- One command from its mnemonic and operands, in the order of spec/30_encoding.md R73. -/
def assembleCommand (name : String) (ops : List Operand) : Option Instr :=
  match name, ops with
  | "INIT", [] => some .init
  | "RDREG", [.num a] => (fits 7 a).map .rdreg
  | "WRREG", [.num a, .num v] => do return .wrreg (← fits 7 a) (← fits 8 v)
  | "SETMODE", [.num v] => (fits 3 v).map .setmode
  | "SETLR", [.num v] => (fitsBit v).map .setlr
  | "SETFREQ", [.num v] => (fits 32 v).map .setfreq
  | "SETTXPWR", [level, .num b] => do return .settxpwr (← fitsLevel level) (← fitsBit b)
  | "SETBW", [.num v] => (fits 32 v).map .setbw
  | "SETSF", [.num v] => (fits 4 v).map .setsf
  | "SETLDR", [.num v] => (fits 2 v).map .setldr
  | "SETCR", [.num v] => (fits 4 v).map .setcr
  | "SETPREAMBLE", [.num v] => (fits 16 v).map .setpreamble
  | "SETSYNC", [.num v] => (fits 8 v).map .setsync
  | "SETCRC", [.num v] => (fitsBit v).map .setcrc
  | "SETIMPL", [.num v] => (fitsBit v).map .setimpl
  | "BEGINPKT", [] => some .beginpkt
  | "WRITE", bytes => (payloadOf bytes).bind writeOf
  | "ENDPKT", [] => some .endpkt
  | "RECEIVE", [.num v] => (fits 8 v).map .receive
  | "RXPOLL", [.num v] => (fits 8 v).map .rxpoll
  | "RDPAYLOAD", [] => some .rdpayload
  | "PKTRSSI", [] => some .pktrssi
  | "PKTSNR", [] => some .pktsnr
  | "ONRECV", [.num v] => (fitsBit v).map .onrecv
  | _, _ => none

/-- The ten setters in the order of spec/30_encoding.md R82. -/
def configure (f level boost b sf ldr den len impl sw crc : Operand) : Option (List Instr) :=
  [assembleCommand "SETFREQ" [f], assembleCommand "SETTXPWR" [level, boost], assembleCommand "SETBW" [b],
   assembleCommand "SETSF" [sf], assembleCommand "SETLDR" [ldr], assembleCommand "SETCR" [den],
   assembleCommand "SETPREAMBLE" [len], assembleCommand "SETIMPL" [impl], assembleCommand "SETSYNC" [sw],
   assembleCommand "SETCRC" [crc]].mapM id

/-- The commands a mnemonic stands for: itself, or the expansion of a pseudo-command (spec/30_encoding.md R82). The two
components of `SETFREQK` carry no minus sign (R81) and have no bound of their own, only their sum has
(spec/91_not_in_source.md N17, log entry 16). -/
def assemble (name : String) (ops : List Operand) : Option (List Instr) :=
  match name, ops with
  | "SLEEP", [] => some [.setmode 0]
  | "STANDBY", [] => some [.setmode 1]
  | "LORA", [] => some [.setlr true]
  | "FSK", [] => some [.setlr false]
  | "SETFREQK", [.num khz, .num hz] => (fits 32 (1000 * khz + hz)).map fun f => [.setfreq f]
  | "RXCONT", [] => some [.receive 0]
  | "SEND", bytes => ((payloadOf bytes).bind writeOf).map fun w => [.beginpkt, w, .endpkt]
  | "CONFIGURE", [f, level, boost, b, sf, ldr, den, len, impl, sw, crc] =>
    configure f level boost b sf ldr den len impl sw crc
  | "CONSTRUCT", [f, level, boost, b, sf, ldr, den, len, impl, sw, crc] =>
    (configure f level boost b sf ldr den len impl sw crc).map (.init :: ·)
  | _, _ => (assembleCommand name ops).map fun i => [i]

/-- One line of text (spec/30_encoding.md R81); an empty line is no command. -/
def assembleLine (line : String) : Option (List Instr) :=
  let parts := takeMnemonic (trim (dropComment false line.toList))
  if parts.1 = [] then some []
  else if trim parts.2 = [] then assemble (String.ofList parts.1) []
  else
    match readOperands (splitCommas false [] parts.2) with
    | none => none
    | some ops => assemble (String.ofList parts.1) ops

/-- A hexadecimal digit. -/
def hexDigit (n : Nat) : Char := if n < 10 then Char.ofNat (48 + n) else Char.ofNat (55 + n)

/-- The word as 10 hexadecimal digits, `op` first (spec/30_encoding.md R81). -/
def wordText (w : CmdWord) : String :=
  String.ofList ((List.range 10).map fun i => hexDigit ((w.toNat / 16 ^ (9 - i)) % 16))

end Sys2Proof.Machine
end

