-- ==== Sys2Proof/Machine/Chip.lean ====
section
/-! DEFINITION. What a claim may assume of the chip (spec/20_memory.md R46 to R51, R55). The chip is no part of the
unit and no step reads this file: it says what a log of transfers tells of the chip, and which answers the source's
premises allow. The view holds what the premises say and nothing more: it forgets whatever a failed or abandoned transfer
may have changed (spec/91_not_in_source.md N10), all a SLEEP may lose (N21), all a long-range change makes another
register's (spec/70_reset_and_hazards.md R229), and the pointer past 0xFF (N5). What it decides beyond the words of R47 to
R51 is log entry 9. -/

namespace Sys2Proof.Machine

/-! ## Memory: bytes by address, in one canonical form -/

/-- Bytes by address, addresses strictly rising; an address not listed holds no known value. -/
abbrev Memory := List Host.Cell

/-- The canonical form: addresses strictly rising. -/
def Memory.wf : Memory → Bool
  | [] => true
  | [_] => true
  | (a, _) :: (b, y) :: rest => decide (a < b) && Memory.wf ((b, y) :: rest)

/-- The byte at an address, none where it is not listed. -/
def Memory.read : Memory → Nat → Option Byte
  | [], _ => none
  | (x, v) :: rest, a => if a = x then some v else Memory.read rest a

/-- Write one byte. -/
def Memory.write : Memory → Nat → Byte → Memory
  | [], a, b => [(a, b)]
  | (x, v) :: rest, a, b =>
    if a < x then (a, b) :: (x, v) :: rest
    else if a = x then (a, b) :: rest
    else (x, v) :: Memory.write rest a b

/-- Forget one byte. -/
def Memory.erase : Memory → Nat → Memory
  | [], _ => []
  | (x, v) :: rest, a => if a = x then rest else (x, v) :: Memory.erase rest a

/-! ## Transfers as the chip sees them -/

/-- The register address of an address byte (spec/20_memory.md R41). -/
def addrOf (a : Byte) : Addr := a.setWidth 7

/-- `WRITE_FLAG` of the address byte marks a write (spec/20_memory.md R41). -/
def isWrite (c : UnitCfg) (a : Byte) : Bool := decide (a &&& c.writeFlag ≠ 0)

/-- The selector of an operating-mode byte is `sel` (spec/10_state.md R26). -/
def selectorIs (c : UnitCfg) (sel : BitVec 3) (b : Byte) : Bool := decide (fieldGet c.chip.mode b = sel.setWidth 8)

/-- Writing `w` to the operating-mode register after `prev` changes the long-range bit. -/
def longRangeChanges (c : UnitCfg) (prev w : Byte) : Bool :=
  decide (prev &&& c.chip.longRange.mask ≠ w &&& c.chip.longRange.mask)

/-- Where a transmission stands, as far as the log tells (spec/20_memory.md R50). -/
inductive TxPhase where
  /-- No transmission is known to be in progress. -/
  | outside
  /-- TX was selected, or seen; the TX-done flag may be left over from an earlier transmission. -/
  | fresh
  /-- Since then the flag was read clear, and it was not cleared by the unit. -/
  | seenClear
  /-- Since then the unit cleared the flag. -/
  | cleared
deriving DecidableEq, Repr

/-- The phase after TX was read: the transmission goes on, so a TX-done flag cleared in it is clear still
(spec/20_memory.md R50). -/
def TxPhase.goesOn : TxPhase → TxPhase
  | .outside => .fresh
  | .fresh => .fresh
  | .seenClear => .seenClear
  | .cleared => .seenClear

/-- What the log tells of the chip. -/
structure ChipView where
  /-- The last byte written to each configuration register, where nothing says that it is lost. -/
  stored : Memory
  /-- The FIFO address pointer, none while unknown (spec/20_memory.md R49). -/
  fifoPtr : Option Byte
  /-- The FIFO bytes the unit wrote (spec/20_memory.md R49). -/
  fifo : Memory
  /-- The IRQ flags known to be set (spec/20_memory.md R48). -/
  flagsSet : Byte
  /-- The operating-mode byte last read or written, none while unknown. -/
  opMode : Option Byte
  /-- The transmission in progress (spec/20_memory.md R50). -/
  tx : TxPhase
  /-- The long-range bit may have been changed outside SLEEP (spec/20_memory.md R51): nothing holds of later answers. -/
  faulted : Bool
deriving DecidableEq, Repr

/-- Forget every register but the operating mode: the stored bytes, the FIFO with its pointer, the flags known set, and
where a transmission stands (log entry 9). -/
def ChipView.forget (v : ChipView) : ChipView :=
  { v with stored := [], fifoPtr := none, fifo := [], flagsSet := 0, tx := .outside }

/-- Nothing is known: the unit does not reset the chip (spec/10_state.md R31). -/
def ChipView.unknown : ChipView where
  stored := []
  fifoPtr := none
  fifo := []
  flagsSet := 0
  opMode := none
  tx := .outside
  faulted := false

/-- The configuration registers, those of the map that the unit writes and the chip does not change by itself
(spec/20_memory.md R47). Of the others, and of every address outside the map, 0x61 to 0x73 among them
(spec/93_implementation_defined.md U8), nothing is assumed to read back. -/
def configRegisters (m : ChipMap) : List Addr :=
  [m.frfMsb, m.frfMid, m.frfLsb, m.paConfig, m.fifoTxBase, m.fifoRxBase, m.modemConfig1, m.modemConfig2,
   m.preambleMsb, m.preambleLsb, m.payloadLength, m.modemConfig3, m.syncWord]

/-- The pointer after an access to the FIFO (spec/20_memory.md R49). Past 0xFF it is unknown: nothing is assumed there
(spec/91_not_in_source.md N5). -/
def nextPtr (p : Byte) : Option Byte := if p = 0xFF then none else some (p + 1)

/-- The FIFO bytes are known to stay in this mode: STANDBY, and TX, which the chip leaves for STANDBY only. A reception
may write them (spec/10_state.md R30), a SLEEP may lose them (spec/91_not_in_source.md N21), and of the other modes the
premises say nothing. -/
def keepsFifo (c : UnitCfg) (opMode : Option Byte) : Bool :=
  match opMode with
  | none => false
  | some b => selectorIs c c.sel.standby b || selectorIs c c.sel.tx b

/-- The long-range bit is known to be set. Only then do the addresses hold the registers of the map, but for the
operating mode itself (spec/70_reset_and_hazards.md R229). -/
def inLoRa (c : UnitCfg) (known : Option Byte) : Bool :=
  match known with
  | none => false
  | some b => decide (b &&& c.chip.longRange.mask ≠ 0)

/-- Writing `w` takes the chip into SLEEP, or may do so (spec/91_not_in_source.md N21). -/
def entersSleep (c : UnitCfg) (known : Option Byte) (w : Byte) : Bool :=
  selectorIs c c.sel.sleep w &&
  match known with
  | none => true
  | some prev => !selectorIs c c.sel.sleep prev

/-- Writing `w` changes the long-range bit, or may do so: the addresses then hold other registers
(spec/70_reset_and_hazards.md R229). -/
def mayChangeLongRange (c : UnitCfg) (known : Option Byte) (w : Byte) : Bool :=
  match known with
  | none => true
  | some prev => longRangeChanges c prev w

/-- Writing `w` changes the long-range bit while the selector is not SLEEP, or may do so where the operating-mode byte is
not known (spec/20_memory.md R51, spec/93_implementation_defined.md U1, log entry 9). -/
def mayCorruptPll (c : UnitCfg) (known : Option Byte) (w : Byte) : Bool :=
  match known with
  | none => true
  | some prev => longRangeChanges c prev w && !selectorIs c c.sel.sleep prev

/-- Reading `r` shows a mode in which what is known of the other registers does not hold: the long-range bit is clear, or
the chip went into SLEEP from a mode of which no rule says where it leads. Where the mode before is not known, a SLEEP
that is read was there all the time, for only a write enters it. -/
def showsLoss (c : UnitCfg) (known : Option Byte) (r : Byte) : Bool :=
  !inLoRa c (some r) ||
  match known with
  | none => false
  | some prev => selectorIs c c.sel.sleep r && !selectorIs c c.sel.sleep prev

/-- The view after the operating-mode byte `w` was written, or may have been. A write that enters SLEEP or changes the
long-range bit, or may do so, forgets all other registers, the FIFO pointer and the flags among them (log entry 9). -/
def ChipView.modeWritten (c : UnitCfg) (v : ChipView) (w : Byte) : ChipView :=
  let kept := if entersSleep c v.opMode w || mayChangeLongRange c v.opMode w then v.forget else v
  { kept with
    opMode := some w
    fifo := if keepsFifo c (some w) then kept.fifo else []
    tx := if selectorIs c c.sel.tx w && inLoRa c (some w) then .fresh else .outside
    faulted := v.faulted || mayCorruptPll c v.opMode w }

/-- The view after a write of `d` that succeeded (spec/20_memory.md R47 to R51). -/
def ChipView.written (c : UnitCfg) (v : ChipView) (addr : Addr) (d : Byte) : ChipView :=
  if addr = c.chip.fifo then
    match v.fifoPtr with
    | none => { v with fifo := [] }
    | some p =>
      { v with fifo := if keepsFifo c v.opMode then v.fifo.write p.toNat d else [], fifoPtr := nextPtr p }
  else if addr = c.chip.fifoAddrPtr then { v with fifoPtr := some d }
  else if addr = c.chip.irqFlags then
    { v with
      flagsSet := v.flagsSet &&& ~~~d
      tx := if txDoneSeen c d ∧ v.tx ≠ .outside then .cleared else v.tx }
  else if addr = c.chip.opMode then v.modeWritten c d
  else if addr ∈ configRegisters c.chip then { v with stored := v.stored.write addr.toNat d }
  else v

/-- The view after the flags `r` were read. TX-done set where it is known to have been clear since TX was selected says
that the transmission is over: the chip is in STANDBY (spec/20_memory.md R50). -/
def ChipView.flagsRead (c : UnitCfg) (v : ChipView) (r : Byte) : ChipView :=
  let seen := { v with flagsSet := r }
  if txDoneSeen c r then
    match v.tx with
    | .outside | .fresh => seen
    | .seenClear | .cleared =>
      { seen with opMode := v.opMode.map fun b => withSelector c b c.sel.standby, tx := .outside }
  else
    match v.tx with
    | .fresh => { seen with tx := .seenClear }
    | .outside | .seenClear | .cleared => seen

/-- The view after the operating-mode byte `r` was read. TX says that a transmission is in progress, whoever started it.
STANDBY where TX was selected or seen says that the transmission is over: TX-done is set, unless the unit has cleared it
since (spec/20_memory.md R50). -/
def ChipView.modeRead (c : UnitCfg) (v : ChipView) (r : Byte) : ChipView :=
  let known := if showsLoss c v.opMode r then v.forget else v
  let kept := { known with opMode := some r, fifo := if keepsFifo c (some r) then known.fifo else [] }
  if selectorIs c c.sel.tx r && inLoRa c (some r) then { kept with tx := known.tx.goesOn }
  else
    match known.tx with
    | .fresh | .seenClear =>
      { kept with
        tx := .outside
        flagsSet := if selectorIs c c.sel.standby r then known.flagsSet ||| c.chip.txDone.mask else known.flagsSet }
    | .outside | .cleared => { kept with tx := .outside }

/-- The view after a read that answered `r`. -/
def ChipView.answered (c : UnitCfg) (v : ChipView) (addr : Addr) (r : Byte) : ChipView :=
  if addr = c.chip.fifo then { v with fifoPtr := v.fifoPtr.bind nextPtr }
  else if addr = c.chip.irqFlags then v.flagsRead c r
  else if addr = c.chip.opMode then v.modeRead c r
  else v

/-- The view after a transfer that failed or was abandoned: what it may have changed is forgotten
(spec/91_not_in_source.md N10, spec/93_implementation_defined.md U10). -/
def ChipView.lost (c : UnitCfg) (v : ChipView) (addr : Addr) (write : Bool) (d : Byte) : ChipView :=
  if addr = c.chip.fifo then { v with fifoPtr := none, fifo := [] }
  else if write then
    if addr = c.chip.fifoAddrPtr then { v with fifoPtr := none }
    else if addr = c.chip.irqFlags then
      { v with flagsSet := v.flagsSet &&& ~~~d, tx := if txDoneSeen c d then .outside else v.tx }
    else if addr = c.chip.opMode then { v.modeWritten c d with opMode := none, fifo := [], tx := .outside }
    else { v with stored := v.stored.erase addr.toNat }
  else v

/-- The view after an event. -/
def ChipView.observe (c : UnitCfg) (v : ChipView) (e : Event) : ChipView :=
  match e with
  | .xfer a d (.byte r) => if isWrite c a then v.written c (addrOf a) d else v.answered c (addrOf a) r
  | .xfer a d .error => v.lost c (addrOf a) (isWrite c a) d
  | .abandoned a d => v.lost c (addrOf a) (isWrite c a) d
  | .response _ _ _ => v
  | .callback _ => v
  | .arm => v
  | .disarm => v

/-- The view a log gives, from nothing known. -/
def chipView (c : UnitCfg) (log : List Event) : ChipView := log.foldl (ChipView.observe c) .unknown

/-- The selectors the chip may show after `prev` (spec/20_memory.md R50): `prev` itself; STANDBY where it leaves TX or
RX-SINGLE by itself; after FS-TX, FS-RX and CAD, of which no rule says anything, every selector. SLEEP, STANDBY and
RX-CONTINUOUS are modes the chip does not leave by itself (spec/70_reset_and_hazards.md R222). -/
def selectorAllowed (c : UnitCfg) (prev r : Byte) : Bool :=
  decide (fieldGet c.chip.mode r = fieldGet c.chip.mode prev) ||
  (selectorIs c c.sel.standby r && (selectorIs c c.sel.tx prev || selectorIs c c.sel.rxSingle prev)) ||
  selectorIs c c.sel.fsTx prev || selectorIs c c.sel.fsRx prev || selectorIs c c.sel.cad prev

/-- A byte that is known must be answered; any answer will do for one that is not. -/
def agrees (known : Option Byte) (r : Byte) : Bool :=
  match known with
  | none => true
  | some b => decide (r = b)

/-- The premises allow a read of `addr` to answer `r` (spec/20_memory.md R47 to R50). A chip that may be faulted may
answer anything (R51), and so may a register of which nothing is known (R46); and where the long-range bit is not known to
be set, every register but the operating mode may (spec/70_reset_and_hazards.md R229). -/
def answerAllowed (c : UnitCfg) (v : ChipView) (addr : Addr) (r : Byte) : Bool :=
  v.faulted ||
  (if addr = c.chip.opMode then
     match v.opMode with
     | none => true
     | some prev =>
       decide (r &&& ~~~c.chip.mode.mask = prev &&& ~~~c.chip.mode.mask) && selectorAllowed c prev r
   else if inLoRa c v.opMode = false then true
   else if addr = c.chip.irqFlags then decide (v.flagsSet &&& ~~~r = 0)
   else if addr = c.chip.fifoAddrPtr then agrees v.fifoPtr r
   else if addr = c.chip.fifo then agrees (v.fifoPtr.bind fun p => v.fifo.read p.toNat) r
   else if addr ∈ configRegisters c.chip then agrees (v.stored.read addr.toNat) r
   else true)

/-- Every answer of the log is one the premises allow, from the view `v`. -/
def chipHonest (c : UnitCfg) (v : ChipView) : List Event → Bool
  | [] => true
  | .xfer a d (.byte r) :: es =>
    (isWrite c a || answerAllowed c v (addrOf a) r) && chipHonest c (v.observe c (.xfer a d (.byte r))) es
  | .xfer a d .error :: es => chipHonest c (v.observe c (.xfer a d .error)) es
  | .abandoned a d :: es => chipHonest c (v.observe c (.abandoned a d)) es
  | .response _ _ _ :: es => chipHonest c v es
  | .callback _ :: es => chipHonest c v es
  | .arm :: es => chipHonest c v es
  | .disarm :: es => chipHonest c v es

end Sys2Proof.Machine
end

