-- ==== Sys2Proof/Safety.lean ====
section
/-! DEFINITION. The terms claims use: the shape of transfers in the log, the invariant of the unit's state, the
long-range gate, and the duties of the host (spec/70_reset_and_hazards.md R211, R220 to R229). -/

namespace Sys2Proof

open Sys2Proof.Machine

/-! ## Inputs and events -/

/-- The bus answers these bytes, in order. -/
def busAnswers (bytes : List Byte) : List Input := bytes.map fun b => .bus (.byte b)

/-- `BusRead(addr)` answered `r` (spec/20_memory.md R42). -/
def readEvent (c : UnitCfg) (addr : Addr) (r : Byte) : Event := .xfer (readAddress c addr) c.readDummy (.byte r)

/-- `BusWrite(addr, v)` answered `x` (spec/20_memory.md R43). -/
def writeEvent (c : UnitCfg) (addr : Addr) (v x : Byte) : Event := .xfer (writeAddress c addr) v (.byte x)

/-- The two transfers of `RMW(addr, mask, val)` that read `old` (spec/40_register_access.md R102). -/
def rmwEvents (c : UnitCfg) (addr : Addr) (mask val old x : Byte) : List Event :=
  [readEvent c addr old, writeEvent c addr ((old &&& ~~~mask) ||| val) x]

/-- The response of a command that ran to its end (spec/30_encoding.md R74). -/
def okEvent (result : BitVec 32) : Event := .response .ok result []

/-- The state after a command used up the answers and made these events: idle again, everything else as it was. -/
def afterEvents (s : State) (rest : List Input) (events : List Event) : State :=
  { s with seq := .idle, inputs := rest, log := s.log ++ events }

/-- A transfer has bit 7 of its address byte set, or it has it clear and sends `READ_DUMMY` (spec/20_memory.md R41,
R42). -/
def Framed (c : UnitCfg) (e : Event) : Prop :=
  match e with
  | .xfer a d _ => a.getLsbD 7 = true ∨ d = c.readDummy
  | .abandoned a d => a.getLsbD 7 = true ∨ d = c.readDummy
  | .response _ _ _ => True
  | .callback _ => True
  | .arm => True
  | .disarm => True

/-- The event is a `BusXfer` that was issued (spec/20_memory.md R40). -/
def isTransfer (e : Event) : Bool :=
  match e with
  | .xfer _ _ _ => true
  | .abandoned _ _ => true
  | .response _ _ _ => false
  | .callback _ => false
  | .arm => false
  | .disarm => false

/-- The event is a response (spec/30_encoding.md R74). -/
def isResponse (e : Event) : Bool :=
  match e with
  | .response _ _ _ => true
  | .xfer _ _ _ => false
  | .abandoned _ _ => false
  | .callback _ => false
  | .arm => false
  | .disarm => false

/-! ## What the encoding tables say, for claims -/

/-- The 24 legal opcodes of spec/30_encoding.md R76, as numbers. -/
def legalOpcodes : List Byte :=
  [0x01, 0x02, 0x03, 0x10, 0x11, 0x20, 0x21, 0x22, 0x23, 0x24, 0x25, 0x26, 0x27, 0x28, 0x29, 0x30, 0x31, 0x32,
   0x40, 0x41, 0x42, 0x43, 0x44, 0x45]

/-- How many low bits of `arg` the operands of each command take (spec/30_encoding.md R73); `WRREG` has a hole at
bit 7 besides. -/
def operandBits : Mnemonic → Nat
  | .init => 0
  | .rdreg => 7
  | .wrreg => 16
  | .setmode => 3
  | .setlr => 1
  | .setfreq => 32
  | .settxpwr => 9
  | .setbw => 32
  | .setsf => 4
  | .setldr => 2
  | .setcr => 4
  | .setpreamble => 16
  | .setsync => 8
  | .setcrc => 1
  | .setimpl => 1
  | .beginpkt => 0
  | .write => 16
  | .endpkt => 0
  | .receive => 8
  | .rxpoll => 8
  | .rdpayload => 0
  | .pktrssi => 0
  | .pktsnr => 0
  | .onrecv => 1

/-- Bit `j` of `arg` is reserved for the command (spec/30_encoding.md R73, R78). -/
def reservedBit (k : Mnemonic) (j : Nat) : Prop :=
  j < 32 ∧ (operandBits k ≤ j ∨ (k = .wrreg ∧ j = 7))

/-! ## Which commands write which element (spec/10_state.md R12 to R18) -/

/-- The commands that write `u.mode_shadow` (spec/10_state.md R13, R23). -/
def writesModeShadow (i : Instr) : Bool :=
  match i with
  | .init | .setmode _ | .setlr _ | .setfreq _ | .beginpkt | .endpkt | .receive _ | .rxpoll _ => true
  | .rdreg _ | .wrreg _ _ | .settxpwr _ _ | .setbw _ | .setsf _ | .setldr _ | .setcr _ | .setpreamble _ | .setsync _
  | .setcrc _ | .setimpl _ | .write _ | .rdpayload | .pktrssi | .pktsnr | .onrecv _ => false

/-- The commands that write `u.implicit_shadow` (spec/10_state.md R15). -/
def writesImplicitShadow (i : Instr) : Bool :=
  match i with
  | .init | .setimpl _ | .receive _ | .rxpoll _ => true
  | .rdreg _ | .wrreg _ _ | .setmode _ | .setlr _ | .setfreq _ | .settxpwr _ _ | .setbw _ | .setsf _ | .setldr _
  | .setcr _ | .setpreamble _ | .setsync _ | .setcrc _ | .beginpkt | .write _ | .endpkt | .rdpayload | .pktrssi
  | .pktsnr | .onrecv _ => false

/-- The commands that write `u.cb_armed` (spec/10_state.md R17). -/
def writesCbArmed (i : Instr) : Bool :=
  match i with
  | .init | .onrecv _ => true
  | .rdreg _ | .wrreg _ _ | .setmode _ | .setlr _ | .setfreq _ | .settxpwr _ _ | .setbw _ | .setsf _ | .setldr _
  | .setcr _ | .setpreamble _ | .setsync _ | .setcrc _ | .setimpl _ | .beginpkt | .write _ | .endpkt | .receive _
  | .rxpoll _ | .rdpayload | .pktrssi | .pktsnr => false

/-! ## Headers of the receive commands -/

/-- The transfers of `HeaderForSize(size)` (spec/44_packet_rx.md R151): `g` is the byte read, `x` and `z` are what the
two writes are answered. -/
def headerEvents (c : UnitCfg) (size g x z : Byte) : List Event :=
  rmwEvents c c.chip.modemConfig1 c.chip.implicitHeader.mask
      (fieldPlace c.chip.implicitHeader (bitByte (decide (size ≠ 0)))) g x ++
    (if size = 0 then [] else [writeEvent c c.chip.payloadLength size z])

/-- The answers that `headerEvents` takes. -/
def headerAnswers (size g x z : Byte) : List Byte := if size = 0 then [g, x] else [g, x, z]

/-- The results of the `OK` responses in a log. -/
def okResults (log : List Event) : List (BitVec 32) :=
  log.filterMap fun e =>
    match e with
    | .response .ok r _ => some r
    | _ => none

/-- The event is a read of the register. -/
def isReadOf (c : UnitCfg) (addr : Addr) (e : Event) : Bool :=
  match e with
  | .xfer a _ _ => !isWrite c a && decide (addrOf a = addr)
  | _ => false

/-! ## The invariant of the unit's state -/

/-- What `u.seq` says of the other elements: a running `INIT` has put the unit in UNINIT with the callback disarmed
(spec/45_init.md R171); any other running command runs in READY (spec/60_exceptions.md R184); the handler runs only
while the callback is armed (spec/60_exceptions.md R186, R187). -/
def SeqCoherent (s : State) : Prop :=
  match s.seq with
  | .idle => True
  | .fg cmd _ =>
    cmd.wf s.cfg = true ∧ (if cmd = .init then s.ustate = .uninit ∧ s.cbArmed = false else s.ustate = .ready)
  | .irq _ => s.ustate = .ready ∧ s.cbArmed = true

/-- The invariant: the callback is armed only in READY (spec/45_init.md R172), an edge is pending only while armed
(spec/60_exceptions.md R187), a READY unit has written the operating mode (spec/45_init.md R171), and a frequency
shadow is a legal frequency (spec/10_state.md R14, spec/30_encoding.md R79). -/
structure Coherent (s : State) : Prop where
  armed_ready : s.cbArmed = true → s.ustate = .ready
  pending_armed : s.irqPending = true → s.cbArmed = true
  ready_mode : s.ustate = .ready → s.modeShadow ≠ none
  freq_legal : ∀ f, s.freqShadow = some f → s.cfg.freqFits f = true
  seq_coherent : SeqCoherent s

/-! ## The long-range gate -/

/-- The operating-mode byte the unit last saw in a sequence: `true` where it wrote it. -/
abbrev LastMode := Option (Bool × Byte)

/-- A write of `w` keeps the long-range bit, or follows a write whose selector is SLEEP
(spec/41_mode_control.md R114). -/
def gateAllows (c : UnitCfg) (last : LastMode) (w : Byte) : Bool :=
  match last with
  | none => true
  | some (wasWrite, prev) => !longRangeChanges c prev w || (wasWrite && selectorIs c c.sel.sleep prev)

/-- The property of spec/41_mode_control.md R114 over the transfers of one sequence. -/
def longRangeGate (c : UnitCfg) : LastMode → List Event → Bool
  | _, [] => true
  | last, .xfer a d r :: es =>
    if addrOf a = c.chip.opMode then
      if isWrite c a then gateAllows c last d && longRangeGate c (some (true, d)) es
      else
        match r with
        | .byte b => longRangeGate c (some (false, b)) es
        | .error => longRangeGate c last es
    else longRangeGate c last es
  | last, .abandoned a d :: es =>
    if addrOf a = c.chip.opMode ∧ isWrite c a then gateAllows c last d && longRangeGate c last es
    else longRangeGate c last es
  | last, .response _ _ _ :: es => longRangeGate c last es
  | last, .callback _ :: es => longRangeGate c last es
  | last, .arm :: es => longRangeGate c last es
  | last, .disarm :: es => longRangeGate c last es

/-! ## Running several steps -/

/-- The state after `n` steps, each with at most one bus transfer. -/
def runSteps : Nat → State → Option State
  | 0, s => some s
  | n + 1, s =>
    match step s with
    | .next t => runSteps n t
    | .fault _ => none
    | .refused _ => none

/-! ## Running several commands -/

/-- The commands run one after the other, each to its `OK` response with the unit idle again; none where one of them
does not get there. -/
def runToOk : List Instr → State → Option State
  | [], s => some s
  | i :: is, s =>
    match exec i s with
    | .next t =>
      match t.seq, t.log.getLast? with
      | .idle, some (.response .ok _ _) => runToOk is t
      | _, _ => none
    | .fault _ => none
    | .refused _ => none

/-! ## Duties of the host -/

/-- Where a transmission stands (spec/70_reset_and_hazards.md R220). -/
inductive TxStage where
  | outside
  | begun
  | staged
deriving DecidableEq, Repr

/-- The registers a host leaves alone while it stages a packet (spec/70_reset_and_hazards.md R220). -/
def stagingRegisters (m : ChipMap) : List Addr := [m.fifo, m.fifoAddrPtr, m.payloadLength]

/-- The transmit commands come in the order of spec/70_reset_and_hazards.md R220, with nothing between them that
moves the FIFO pointer or rewrites the length register. -/
def transmitDuty (m : ChipMap) : TxStage → List Instr → Bool
  | _, [] => true
  | st, i :: is =>
    match i with
    | .beginpkt => transmitDuty m .begun is
    | .write _ => decide (st ≠ .outside) && transmitDuty m .staged is
    | .endpkt => decide (st = .staged) && transmitDuty m .outside is
    | .rdreg addr => (decide (st = .outside) || decide (addr ∉ stagingRegisters m)) && transmitDuty m st is
    | .wrreg addr _ => (decide (st = .outside) || decide (addr ∉ stagingRegisters m)) && transmitDuty m st is
    | .receive size => (decide (st = .outside) || decide (size = 0)) && transmitDuty m st is
    | .rxpoll size => (decide (st = .outside) || decide (size = 0)) && transmitDuty m st is
    | .rdpayload => decide (st = .outside) && transmitDuty m st is
    | .init | .setmode _ | .setlr _ | .setfreq _ | .settxpwr _ _ | .setbw _ | .setsf _ | .setldr _ | .setcr _
    | .setpreamble _ | .setsync _ | .setcrc _ | .setimpl _ | .pktrssi | .pktsnr | .onrecv _ => transmitDuty m st is

/-- The place of a setter in the boot order of spec/70_reset_and_hazards.md R211. -/
def setterRank : Instr → Option Nat
  | .setfreq _ => some 0
  | .settxpwr _ _ => some 1
  | .setbw _ => some 2
  | .setsf _ => some 3
  | .setldr _ => some 4
  | .setcr _ => some 5
  | .setpreamble _ => some 6
  | .setimpl _ => some 7
  | .setsync _ => some 8
  | .setcrc _ => some 9
  | .init | .rdreg _ | .wrreg _ _ | .setmode _ | .setlr _ | .beginpkt | .write _ | .endpkt | .receive _ | .rxpoll _
  | .rdpayload | .pktrssi | .pktsnr | .onrecv _ => none

/-- Where the boot sequence stands (spec/70_reset_and_hazards.md R211, log entry 17). -/
inductive BootStage where
  /-- `INIT` has not answered `OK` yet. -/
  | connect
  /-- `INIT` answered `ERR_VERSION`: nothing else is possible. -/
  | wrongChip
  /-- The setters before the place `next` have answered `OK`. -/
  | configure (next : Nat)
  /-- All setters have; the callback is to be armed. -/
  | arm
  /-- The callback is armed; the reception is to be started. -/
  | listen
  | booted
deriving DecidableEq, Repr

/-- The stage after an `INIT`: it may be tried again after `ERR_BUS` (spec/70_reset_and_hazards.md R211, step 1). -/
def BootStage.afterInit : Status → BootStage
  | .ok => .configure 0
  | .errVersion => .wrongChip
  | .errOp | .errArg | .errState | .errBus | .errTimeout => .connect

/-- The stage after a setter with place `k`, where the one at place `next` is due: none out of order, and one that was
not answered `OK` is still due (spec/70_reset_and_hazards.md R211, step 2). -/
def BootStage.afterSetter (interrupts : Bool) (next k : Nat) (st : Status) : Option BootStage :=
  if k ≠ next then none
  else if st ≠ .ok then some (.configure next)
  else if next < 9 then some (.configure (next + 1))
  else if interrupts then some .arm
  else some .booted

/-- The packet commands, which mean what their rules say only after the boot sequence (spec/70_reset_and_hazards.md
R211). -/
def isPacketCommand : Instr → Bool
  | .beginpkt | .write _ | .endpkt | .receive _ | .rxpoll _ | .rdpayload | .pktrssi | .pktsnr | .onrecv _ => true
  | .init | .rdreg _ | .wrreg _ _ | .setmode _ | .setlr _ | .setfreq _ | .settxpwr _ _ | .setbw _ | .setsf _
  | .setldr _ | .setcr _ | .setpreamble _ | .setsync _ | .setcrc _ | .setimpl _ => false

/-- The command is a `RECEIVE` (spec/44_packet_rx.md R150). -/
def startsReception : Instr → Bool
  | .receive _ => true
  | .init | .rdreg _ | .wrreg _ _ | .setmode _ | .setlr _ | .setfreq _ | .settxpwr _ _ | .setbw _ | .setsf _
  | .setldr _ | .setcr _ | .setpreamble _ | .setsync _ | .setcrc _ | .setimpl _ | .beginpkt | .write _ | .endpkt
  | .rxpoll _ | .rdpayload | .pktrssi | .pktsnr | .onrecv _ => false

/-- The stage after a command that was answered with this status, none where it breaks the order of
spec/70_reset_and_hazards.md R211; with `interrupts` the host wants its step 3, `ONRECV 1` and then `RECEIVE`. -/
def BootStage.next (interrupts : Bool) (stage : BootStage) (i : Instr) (st : Status) : Option BootStage :=
  if stage = .wrongChip then none
  else if i = .init then some (.afterInit st)
  else
    match stage with
    | .connect | .wrongChip => none
    | .configure next =>
      match setterRank i with
      | some k => BootStage.afterSetter interrupts next k st
      | none => if isPacketCommand i then none else some (.configure next)
    | .arm =>
      if i = .onrecv true then some (if st = .ok then .listen else .arm)
      else if startsReception i then none
      else some .arm
    | .listen =>
      if i = .onrecv false then some .arm
      else if startsReception i ∧ st = .ok then some .booted
      else some .listen
    | .booted => some .booted

/-- The stage after some commands, each with the status of its response; none where they break the order. -/
def bootStage (interrupts : Bool) : BootStage → List (Instr × Status) → Option BootStage
  | stage, [] => some stage
  | stage, (i, st) :: rest => (stage.next interrupts i st).bind fun t => bootStage interrupts t rest

/-- So far the host keeps the order of spec/70_reset_and_hazards.md R211. -/
def bootDuty (interrupts : Bool) (history : List (Instr × Status)) : Bool :=
  (bootStage interrupts .connect history).isSome

/-- The host has kept the order and is through it: the packet commands mean what their rules say
(spec/70_reset_and_hazards.md R211). -/
def bootComplete (interrupts : Bool) (history : List (Instr × Status)) : Bool :=
  decide (bootStage interrupts .connect history = some .booted)

/-- Raw access leaves alone the registers with side effects (spec/70_reset_and_hazards.md R221, log entry 18). -/
def rawAccessDuty (m : ChipMap) (i : Instr) : Bool :=
  match i with
  | .rdreg addr => decide (addr ≠ m.fifo)
  | .wrreg addr _ => decide (addr ∉ [m.fifo, m.irqFlags, m.opMode])
  | .init | .setmode _ | .setlr _ | .setfreq _ | .settxpwr _ _ | .setbw _ | .setsf _ | .setldr _ | .setcr _
  | .setpreamble _ | .setsync _ | .setcrc _ | .setimpl _ | .beginpkt | .write _ | .endpkt | .receive _ | .rxpoll _
  | .rdpayload | .pktrssi | .pktsnr | .onrecv _ => true

/-- `SETFREQ` and `SETLR` are issued only in modes the chip does not leave by itself
(spec/70_reset_and_hazards.md R222). -/
def steadyModeDuty (c : UnitCfg) (v : ChipView) (i : Instr) : Bool :=
  match i with
  | .setfreq _ | .setlr _ =>
    match v.opMode with
    | none => false
    | some b => selectorIs c c.sel.sleep b || selectorIs c c.sel.standby b || selectorIs c c.sel.rxCont b
  | .init | .rdreg _ | .wrreg _ _ | .setmode _ | .settxpwr _ _ | .setbw _ | .setsf _ | .setldr _ | .setcr _
  | .setpreamble _ | .setsync _ | .setcrc _ | .setimpl _ | .beginpkt | .write _ | .endpkt | .receive _ | .rxpoll _
  | .rdpayload | .pktrssi | .pktsnr | .onrecv _ => true

/-- The host has taken the last callback event (spec/70_reset_and_hazards.md R226). -/
def callbackDuty (s : State) : Bool := decide (s.callbackPort = none)

/-- The polled path is not used while the interrupt path is armed (spec/70_reset_and_hazards.md R228). DESIGN CHOICE: R228
does not say what mixing them on the same reception is; here it is an `RXPOLL` issued while the callback is armed, whether
or not a reception is under way (log entry 18). -/
def onePathDuty (s : State) (i : Instr) : Bool :=
  match i with
  | .rxpoll _ => !s.cbArmed
  | .init | .rdreg _ | .wrreg _ _ | .setmode _ | .setlr _ | .setfreq _ | .settxpwr _ _ | .setbw _ | .setsf _
  | .setldr _ | .setcr _ | .setpreamble _ | .setsync _ | .setcrc _ | .setimpl _ | .beginpkt | .write _ | .endpkt
  | .receive _ | .rdpayload | .pktrssi | .pktsnr | .onrecv _ => true

/-- The chip is in LoRa mode as far as the log tells (spec/70_reset_and_hazards.md R229). -/
def loraDuty (c : UnitCfg) (v : ChipView) : Bool := inLoRa c v.opMode

end Sys2Proof
end

