-- ==== Sys2Proof/Certificates/Slice0/Obligations.lean ====
section
/-! DEFINITION. The statements for the provers. Register addresses, field masks and every other parameter are those of
`s.cfg`, so each statement holds for every `CHIPMAP` and every parameter value unless it asks for a legal record. The
answers of the bus are hypotheses on `s.inputs`. -/

open Sys2Proof Sys2Proof.Machine

/-! ## Reset and the invariant -/

/-- Reset leaves every element at the value of the reset table (spec/10_state.md R31, spec/70_reset_and_hazards.md
R210), and a unit with nothing to do waits; the parameters are legal, with the version byte and the write flag of
spec/00_scope.md R4. That the log starts with the `disarm` request is log entry 7. -/
def Obligations.ResetHoldsSpecValues : Prop :=
  State.reset.ustate = .uninit ∧ State.reset.modeShadow = none ∧ State.reset.freqShadow = none ∧
  State.reset.implicitShadow = false ∧ State.reset.cbArmed = false ∧ State.reset.irqPending = false ∧
  State.reset.seq = .idle ∧ State.reset.ready = true ∧ State.reset.callbackPort = none ∧
  busRequest State.reset = none ∧ State.reset.log = [.disarm] ∧ step State.reset = .next State.reset ∧
  State.reset.cfg.legal = true ∧ State.reset.cfg.versionOk = 0x12 ∧ State.reset.cfg.writeFlag = 0x80

/-- The reset state meets the invariant of `CoherentKeptByStep`. -/
def Obligations.ResetIsCoherent : Prop := Coherent State.reset

/-- Every step keeps the invariant: armed only in READY, pending only while armed, READY only with a mode shadow, a legal
frequency shadow, and `u.seq` in agreement (spec/10_state.md R12 to R19, spec/45_init.md R172). -/
def Obligations.CoherentKeptByStep : Prop :=
  ∀ s t : State, Coherent s → step s = .next t → Coherent t

/-- Every step answers a next state: the unit has no fault and refuses no word (spec/30_encoding.md R77 to R79). -/
def Obligations.EveryStepAnswers : Prop :=
  (∀ s : State, ∃ t, step s = .next t) ∧ ∀ (i : Instr) (s : State), ∃ t, exec i s = .next t

/-! ## Encoding -/

/-- Decoding the words of a command that the format can say, well-formed or not, gives it back, whatever follows on the
byte stream and whatever the 24 opcodes are, as long as they differ; and the decoder tells the length from the word alone
(spec/30_encoding.md R71 to R73). -/
def Obligations.DecodeOfEncode : Prop :=
  ∀ (o : Opcodes) (i : Instr) (more : List Byte), o.codes.Nodup → i.encodable = true →
    decode o (encode o i).1 ((encode o i).2 ++ more) = .ok i ∧ dataCount o (encode o i).1 = (encode o i).2.length

/-- A word that decodes is the encoding of what it decodes to, with any 24 opcodes: no bit of it is dropped. -/
def Obligations.EncodeOfDecode : Prop :=
  ∀ (o : Opcodes) (w : CmdWord) (stream : List Byte) (i : Instr), decode o w stream = .ok i →
    encode o i = (w, stream.take (dataCount o w))

/-- Words of the spec's examples decode to the commands they stand for (spec/30_encoding.md R81,
spec/95_test_vectors.md). -/
def Obligations.SampleWordsDecode : Prop :=
  decode .default 0x0100000000 [] = .ok .init ∧ decode .default 0x0300003439 [] = .ok (.wrreg 0x39 0x34) ∧
  decode .default 0x1000000005 [] = .ok (.setmode 5) ∧ decode .default 0x2033BCA100 [] = .ok (.setfreq 868000000) ∧
  decode .default 0x21000000FD [] = .ok (.settxpwr (BitVec.ofInt 8 (-3)) false) ∧
  decode .default 0x3100000002 [0x48, 0x69] = .ok (.write [0x48, 0x69]) ∧ decode .default 0x4000000010 [] = .ok (.receive 16)

/-! ## Accepting a command -/

/-- A ready unit takes the word and its data bytes from the port and runs the decoded command for one transfer: on the
inputs up to the next answer of the bus, with the later inputs left for the next steps (spec/30_encoding.md R70 to R72,
spec/20_memory.md R45). Where no input comes after that answer, a step is `exec`. That all data bytes of a `WRITE` leave the
stream at once is the model's choice (log entry 5), and so is which inputs a step takes and which it puts back (log
entry 12). -/
def Obligations.StepRunsDecodedCommand : Prop :=
  ∀ (s t : State) (w : CmdWord) (ws : List CmdWord) (i : Instr),
    s.ready = true → rstAsserted s = false → s.cmdWords = w :: ws → decode s.cfg.op w s.cmdBytes = .ok i →
    let fetched := { s with cmdWords := ws, cmdBytes := s.cmdBytes.drop (dataCount s.cfg.op w) }
    let split := untilAnswer s.inputs
    (exec i { fetched with inputs := split.1 } = .next t →
      step s = .next { t with inputs := t.inputs ++ split.2 }) ∧
    (split.2 = [] → step s = exec i fetched)

/-- An illegal opcode: the word is accepted, nothing else happens, no data byte is consumed, `ERR_OP`. The opcodes are those
of the parameters, by default the 24 of the opcode map (spec/30_encoding.md R76, R77). -/
def Obligations.IllegalOpcodeAnswersErrOp : Prop :=
  UnitCfg.default.op.codes = legalOpcodes ∧
  ∀ (s : State) (w : CmdWord) (ws : List CmdWord),
    s.ready = true → rstAsserted s = false → s.cmdWords = w :: ws → opField w ∉ s.cfg.op.codes →
    step s = .next { s with cmdWords := ws, log := s.log ++ [.response .errOp 0 []] }

/-- A legal opcode with a reserved bit set: no transfer, no state change, `ERR_ARG`; a `WRITE` still consumes its data
bytes (spec/30_encoding.md R78). -/
def Obligations.ReservedBitAnswersErrArg : Prop :=
  ∀ (s : State) (w : CmdWord) (ws : List CmdWord) (k : Mnemonic) (j : Nat),
    s.ready = true → rstAsserted s = false → s.cmdWords = w :: ws → s.cfg.op.codes.Nodup →
    opField w = s.cfg.op.of k → reservedBit k j → (argField w).getLsbD j = true →
    dataCount s.cfg.op w ≤ s.cmdBytes.length →
    step s = .next { s with cmdWords := ws, cmdBytes := s.cmdBytes.drop (dataCount s.cfg.op w),
                            log := s.log ++ [.response .errArg 0 []] }

/-- An operand outside the range the parameters give: no transfer, no state change, `ERR_ARG`, in every lifecycle state
(spec/30_encoding.md R79, case 2). That an address which `ADDR_W` bits cannot hold is such an operand of `RDREG` and
`WRREG`, and that the limit of `SETFREQ` follows `FRF_W`, is the model's choice (log entry 2, DEDUCED): R79 lists no check of
an address, and with the default width every address of the format is in range, as spec/20_memory.md R56 has it. -/
def Obligations.OperandOutOfRangeAnswersErrArg : Prop :=
  ∀ (s : State) (i : Instr), s.seq = .idle →
    ((∃ addr, 2 ^ s.cfg.addrW ≤ addr.toNat ∧ (i = .rdreg addr ∨ ∃ v, i = .wrreg addr v)) ∨
      (∃ f, i = .setfreq f ∧ 2 ^ s.cfg.frfW ≤ f.toNat * 2 ^ s.cfg.frfShift / s.cfg.fxoscHz) ∨
      (∃ sf, i = .setsf sf ∧ (sf.toNat < s.cfg.sfMin ∨ s.cfg.sfMax < sf.toNat)) ∨
      i = .setldr 3 ∨ (∃ den, i = .setcr den ∧ (den.toNat < s.cfg.crMin ∨ s.cfg.crMax < den.toNat))) →
    exec i s = .next { s with log := s.log ++ [.response .errArg 0 []] }

/-- A command other than `INIT` outside READY: its data bytes are consumed, no transfer, no state change, `ERR_STATE`
(spec/60_exceptions.md R184). -/
def Obligations.NotReadyAnswersErrState : Prop :=
  ∀ (s : State) (w : CmdWord) (ws : List CmdWord) (i : Instr),
    s.ready = true → rstAsserted s = false → s.cmdWords = w :: ws → decode s.cfg.op w s.cmdBytes = .ok i → i.wf s.cfg = true → i ≠ .init →
    s.ustate ≠ .ready →
    step s = .next { s with cmdWords := ws, cmdBytes := s.cmdBytes.drop (dataCount s.cfg.op w),
                            log := s.log ++ [.response .errState 0 []] }

/-! ## What each command does when the bus answers -/

/-- `INIT` on the accepted silicon, in every lifecycle state: eleven transfers, then READY (spec/45_init.md R171). -/
def Obligations.InitCompletes : Prop :=
  ∀ (s : State) (m0 x1 x2 x3 y1 y2 g z m u : Byte) (rest : List Input),
    s.inputs = busAnswers [s.cfg.versionOk, m0, x1, x2, x3, y1, y2, g, z, m, u] ++ rest →
    let c := s.cfg
    let w1 := (m0 &&& ~~~c.chip.mode.mask) ||| selectorBits c c.sel.sleep
    let w2 := w1 ||| c.chip.longRange.mask
    let w3 := (w2 &&& ~~~c.chip.mode.mask) ||| (m0 &&& c.chip.mode.mask)
    exec .init s = .next
      { afterEvents s rest
          ([.disarm, readEvent c c.chip.version c.versionOk, readEvent c c.chip.opMode m0, writeEvent c c.chip.opMode w1 x1,
            writeEvent c c.chip.opMode w2 x2, writeEvent c c.chip.opMode w3 x3,
            writeEvent c c.chip.fifoTxBase c.fifoTxBase y1, writeEvent c c.chip.fifoRxBase c.fifoRxBase y2] ++
           rmwEvents c c.chip.modemConfig1 c.chip.implicitHeader.mask (fieldPlace c.chip.implicitHeader 0) g z ++
           rmwEvents c c.chip.opMode c.chip.mode.mask (selectorBits c c.sel.standby) m u ++ [okEvent 0])
        with
          ustate := .ready, cbArmed := false, irqPending := false, implicitShadow := false,
          modeShadow := some ((m &&& ~~~c.chip.mode.mask) ||| selectorBits c c.sel.standby) }

/-- `INIT` on other silicon: the version read is the only transfer, the unit is FAILED, and the response carries the
byte (spec/45_init.md R170). The accepted byte is the parameter `VERSION_OK`, 0x12 (spec/00_scope.md R4). -/
def Obligations.InitRefusesOtherSilicon : Prop :=
  State.reset.cfg.versionOk = 0x12 ∧
  ∀ (s : State) (v : Byte) (rest : List Input),
    s.inputs = busAnswers [v] ++ rest → v ≠ s.cfg.versionOk →
    exec .init s = .next
      { afterEvents s rest [.disarm, readEvent s.cfg s.cfg.chip.version v, .response .errVersion (v.setWidth 32) []]
        with ustate := .failed, cbArmed := false, irqPending := false }

/-- `RDREG` makes one read and answers the byte (spec/40_register_access.md R100). That the address fits `ADDR_W` is the
model's condition (log entry 2); with the default width every address does. -/
def Obligations.RdregReadsOneRegister : Prop :=
  ∀ (s : State) (addr : Addr) (v : Byte) (rest : List Input),
    s.ustate = .ready → addr.toNat < 2 ^ s.cfg.addrW → s.inputs = busAnswers [v] ++ rest →
    exec (.rdreg addr) s = .next (afterEvents s rest [readEvent s.cfg addr v, okEvent (v.setWidth 32)])

/-- `WRREG` makes one write; no shadow follows (spec/40_register_access.md R101). That the address fits `ADDR_W` is the
model's condition (log entry 2); with the default width every address does. -/
def Obligations.WrregWritesOneRegister : Prop :=
  ∀ (s : State) (addr : Addr) (value x : Byte) (rest : List Input),
    s.ustate = .ready → addr.toNat < 2 ^ s.cfg.addrW → s.inputs = busAnswers [x] ++ rest →
    exec (.wrreg addr value) s = .next (afterEvents s rest [writeEvent s.cfg addr value x, okEvent 0])

/-- `SETMODE`: one read and one write of the operating-mode register, the selector replaced, every other bit as read,
the shadow updated (spec/41_mode_control.md R110, R111). -/
def Obligations.SetmodeReplacesSelector : Prop :=
  ∀ (s : State) (sel : BitVec 3) (m x : Byte) (rest : List Input),
    s.ustate = .ready → s.inputs = busAnswers [m, x] ++ rest →
    exec (.setmode sel) s = .next
      { afterEvents s rest
          (rmwEvents s.cfg s.cfg.chip.opMode s.cfg.chip.mode.mask (selectorBits s.cfg sel) m x ++ [okEvent 0])
        with modeShadow := some ((m &&& ~~~s.cfg.chip.mode.mask) ||| selectorBits s.cfg sel) }

/-- `SETLR`: read, to SLEEP, change the bit, restore the selector; the shadow follows each write, so a bus error at the
third transfer leaves it at the SLEEP byte (spec/41_mode_control.md R112, R113, spec/70_reset_and_hazards.md R224). -/
def Obligations.SetlrGoesThroughSleep : Prop :=
  ∀ (s : State) (en : Bool) (m0 x1 x2 x3 : Byte) (rest : List Input), s.ustate = .ready →
    let c := s.cfg
    let w1 := (m0 &&& ~~~c.chip.mode.mask) ||| selectorBits c c.sel.sleep
    let w2 := if en then w1 ||| c.chip.longRange.mask else w1 &&& ~~~c.chip.longRange.mask
    let w3 := (w2 &&& ~~~c.chip.mode.mask) ||| (m0 &&& c.chip.mode.mask)
    (s.inputs = busAnswers [m0, x1, x2, x3] ++ rest →
      exec (.setlr en) s = .next
        { afterEvents s rest
            [readEvent c c.chip.opMode m0, writeEvent c c.chip.opMode w1 x1, writeEvent c c.chip.opMode w2 x2,
             writeEvent c c.chip.opMode w3 x3, okEvent 0]
          with modeShadow := some w3 }) ∧
    (s.inputs = busAnswers [m0, x1] ++ .bus .error :: rest →
      exec (.setlr en) s = .next
        { afterEvents s rest
            [readEvent c c.chip.opMode m0, writeEvent c c.chip.opMode w1 x1,
             .xfer (writeAddress c c.chip.opMode) w2 .error, .response .errBus 0 []]
          with modeShadow := some w1 })

/-- `SETFREQ`: the three code bytes, most significant first, then the low-frequency bit by read-modify-write; both
shadows (spec/42_rf_config.md R121, spec/20_memory.md R53). That the code fits `FRF_W`, 24 by default, is the limit as log
entry 2 reads it. -/
def Obligations.SetfreqWritesCodeAndBand : Prop :=
  ∀ (s : State) (f : BitVec 32) (x1 x2 x3 m x4 : Byte) (rest : List Input),
    s.ustate = .ready → s.cfg.freqFits f = true → s.inputs = busAnswers [x1, x2, x3, m, x4] ++ rest →
    let c := s.cfg
    let lf := if f.toNat < c.lfThresholdHz then c.chip.lowFreq.mask else 0
    exec (.setfreq f) s = .next
      { afterEvents s rest
          ([writeEvent c c.chip.frfMsb ((freqCode c f).extractLsb' 16 8) x1,
            writeEvent c c.chip.frfMid ((freqCode c f).extractLsb' 8 8) x2,
            writeEvent c c.chip.frfLsb ((freqCode c f).extractLsb' 0 8) x3] ++
           rmwEvents c c.chip.opMode c.chip.lowFreq.mask lf m x4 ++ [okEvent 0])
        with modeShadow := some ((m &&& ~~~c.chip.lowFreq.mask) ||| lf), freqShadow := some f }

/-- `SETTXPWR` makes one write of the power byte, for every level and both paths (spec/42_rf_config.md R122). -/
def Obligations.SettxpwrWritesPowerByte : Prop :=
  ∀ (s : State) (level : Byte) (boost : Bool) (x : Byte) (rest : List Input),
    s.ustate = .ready → s.inputs = busAnswers [x] ++ rest →
    exec (.settxpwr level boost) s = .next
      (afterEvents s rest [writeEvent s.cfg s.cfg.chip.paConfig (powerByte s.cfg level boost) x, okEvent 0])

/-- `SETBW` replaces the bandwidth field by the bin index (spec/42_rf_config.md R124). -/
def Obligations.SetbwWritesBin : Prop :=
  ∀ (s : State) (b : BitVec 32) (g x : Byte) (rest : List Input),
    s.ustate = .ready → s.inputs = busAnswers [g, x] ++ rest →
    exec (.setbw b) s = .next
      (afterEvents s rest
        (rmwEvents s.cfg s.cfg.chip.modemConfig1 s.cfg.chip.bandwidth.mask
          (fieldPlace s.cfg.chip.bandwidth (BitVec.ofNat 8 (quantize s.cfg b))) g x ++ [okEvent 0]))

/-- `SETSF` replaces the spreading-factor field, for the factors `SF_MIN` to `SF_MAX` (spec/42_rf_config.md R125). -/
def Obligations.SetsfWritesFactor : Prop :=
  ∀ (s : State) (sf : BitVec 4) (g x : Byte) (rest : List Input),
    s.ustate = .ready → s.cfg.sfMin ≤ sf.toNat → sf.toNat ≤ s.cfg.sfMax → s.inputs = busAnswers [g, x] ++ rest →
    exec (.setsf sf) s = .next
      (afterEvents s rest
        (rmwEvents s.cfg s.cfg.chip.modemConfig2 s.cfg.chip.spreadingFactor.mask
          (fieldPlace s.cfg.chip.spreadingFactor (sf.setWidth 8)) g x ++ [okEvent 0]))

/-- `SETLDR`: off and on replace the flag; automatic reads the spreading factor back first and turns the flag on from
10 (spec/42_rf_config.md R126). -/
def Obligations.SetldrWritesFlag : Prop :=
  ∀ (s : State) (f g x : Byte) (rest : List Input), s.ustate = .ready →
    (∀ on : Bool, s.inputs = busAnswers [g, x] ++ rest →
      exec (.setldr (if on then 1 else 0)) s = .next
        (afterEvents s rest
          (rmwEvents s.cfg s.cfg.chip.modemConfig3 s.cfg.chip.lowDataRateOptimize.mask
            (fieldPlace s.cfg.chip.lowDataRateOptimize (if on then 1 else 0)) g x ++ [okEvent 0]))) ∧
    (s.inputs = busAnswers [f, g, x] ++ rest →
      exec (.setldr 2) s = .next
        (afterEvents s rest
          ([readEvent s.cfg s.cfg.chip.modemConfig2 f] ++
           rmwEvents s.cfg s.cfg.chip.modemConfig3 s.cfg.chip.lowDataRateOptimize.mask
            (fieldPlace s.cfg.chip.lowDataRateOptimize
              (if 10 ≤ (fieldGet s.cfg.chip.spreadingFactor f).toNat then 1 else 0)) g x ++ [okEvent 0])))

/-- `SETCR` replaces the coding-rate field by the denominator minus 4, for `CR_MIN` to `CR_MAX` (spec/42_rf_config.md R127). -/
def Obligations.SetcrWritesRate : Prop :=
  ∀ (s : State) (den : BitVec 4) (g x : Byte) (rest : List Input),
    s.ustate = .ready → 4 ≤ s.cfg.crMin → s.cfg.crMin ≤ den.toNat → den.toNat ≤ s.cfg.crMax →
    s.inputs = busAnswers [g, x] ++ rest →
    exec (.setcr den) s = .next
      (afterEvents s rest
        (rmwEvents s.cfg s.cfg.chip.modemConfig1 s.cfg.chip.codingRate.mask
          (fieldPlace s.cfg.chip.codingRate (BitVec.ofNat 8 (den.toNat - 4))) g x ++ [okEvent 0]))

/-- `SETPREAMBLE` writes both bytes, most significant first (spec/42_rf_config.md R128, spec/20_memory.md R53). -/
def Obligations.SetpreambleWritesLength : Prop :=
  ∀ (s : State) (len : BitVec 16) (x y : Byte) (rest : List Input),
    s.ustate = .ready → s.inputs = busAnswers [x, y] ++ rest →
    exec (.setpreamble len) s = .next
      (afterEvents s rest
        [writeEvent s.cfg s.cfg.chip.preambleMsb (len.extractLsb' 8 8) x,
         writeEvent s.cfg s.cfg.chip.preambleLsb (len.extractLsb' 0 8) y, okEvent 0])

/-- `SETSYNC` makes one write (spec/42_rf_config.md R129). -/
def Obligations.SetsyncWritesWord : Prop :=
  ∀ (s : State) (sw x : Byte) (rest : List Input),
    s.ustate = .ready → s.inputs = busAnswers [x] ++ rest →
    exec (.setsync sw) s = .next (afterEvents s rest [writeEvent s.cfg s.cfg.chip.syncWord sw x, okEvent 0])

/-- `SETCRC` replaces the CRC-enable flag (spec/42_rf_config.md R132). -/
def Obligations.SetcrcWritesFlag : Prop :=
  ∀ (s : State) (en : Bool) (g x : Byte) (rest : List Input),
    s.ustate = .ready → s.inputs = busAnswers [g, x] ++ rest →
    exec (.setcrc en) s = .next
      (afterEvents s rest
        (rmwEvents s.cfg s.cfg.chip.modemConfig2 s.cfg.chip.payloadCrcOn.mask
          (fieldPlace s.cfg.chip.payloadCrcOn (if en then 1 else 0)) g x ++ [okEvent 0]))

/-- `SETIMPL` replaces the header flag; the shadow follows the write that succeeded and no failed one
(spec/42_rf_config.md R130, R131). -/
def Obligations.SetimplWritesHeaderMode : Prop :=
  ∀ (s : State) (en : Bool) (g x : Byte) (rest : List Input), s.ustate = .ready →
    let c := s.cfg
    let bits := fieldPlace c.chip.implicitHeader (if en then 1 else 0)
    (s.inputs = busAnswers [g, x] ++ rest →
      exec (.setimpl en) s = .next
        { afterEvents s rest (rmwEvents c c.chip.modemConfig1 c.chip.implicitHeader.mask bits g x ++ [okEvent 0])
          with implicitShadow := en }) ∧
    (s.inputs = busAnswers [g] ++ .bus .error :: rest →
      exec (.setimpl en) s = .next
        (afterEvents s rest
          [readEvent c c.chip.modemConfig1 g,
           .xfer (writeAddress c c.chip.modemConfig1) ((g &&& ~~~c.chip.implicitHeader.mask) ||| bits) .error,
           .response .errBus 0 []]))

/-- `BEGINPKT`: STANDBY, the FIFO pointer to the TX base, the payload length to 0 (spec/43_packet_tx.md R140). -/
def Obligations.BeginpktStagesEmptyPacket : Prop :=
  ∀ (s : State) (m x y z : Byte) (rest : List Input),
    s.ustate = .ready → s.inputs = busAnswers [m, x, y, z] ++ rest →
    let c := s.cfg
    exec .beginpkt s = .next
      { afterEvents s rest
          (rmwEvents c c.chip.opMode c.chip.mode.mask (selectorBits c c.sel.standby) m x ++
           [writeEvent c c.chip.fifoAddrPtr c.fifoTxBase y, writeEvent c c.chip.payloadLength 0 z, okEvent 0])
        with modeShadow := some ((m &&& ~~~c.chip.mode.mask) ||| selectorBits c c.sel.standby) }

/-- `WRITE` accepts `k = min(n, MAX_PKT - FIFO_TX_BASE - cur)` bytes (0 where that is negative), writes them to the FIFO
in order, and writes `cur + k` to the length register, which never exceeds 255 where `MAX_PKT` does not
(spec/43_packet_tx.md R141, R142). -/
def Obligations.WriteAppendsAcceptedBytes : Prop :=
  ∀ (s : State) (data xs : List Byte) (cur y : Byte) (rest : List Input),
    s.ustate = .ready → data.length < 65536 →
    let c := s.cfg
    let k := min data.length (c.maxPkt - c.fifoTxBase.toNat - cur.toNat)
    xs.length = k → s.inputs = busAnswers (cur :: xs ++ [y]) ++ rest →
    (c.maxPkt ≤ 255 → cur.toNat + k ≤ 255) ∧
    exec (.write data) s = .next
      (afterEvents s rest
        ([readEvent c c.chip.payloadLength cur] ++ List.zipWith (writeEvent c c.chip.fifo) (data.take k) xs ++
         [writeEvent c c.chip.payloadLength (BitVec.ofNat 8 (cur.toNat + k)) y, okEvent (BitVec.ofNat 32 k)]))

/-- `ENDPKT`: TX, then flag reads until TX-done is seen (within the poll limit if there is one), then only TX-done is
cleared and the shadow's selector follows to STANDBY (spec/43_packet_tx.md R144). -/
def Obligations.EndpktCompletesOnTxDone : Prop :=
  ∀ (s : State) (m x v y : Byte) (polls : List Byte) (rest : List Input),
    s.ustate = .ready → (∀ u ∈ polls, u &&& s.cfg.chip.txDone.mask = 0) → v &&& s.cfg.chip.txDone.mask ≠ 0 →
    (∀ n, s.cfg.txPollLimit = some n → polls.length < n) →
    s.inputs = busAnswers ([m, x] ++ polls ++ [v, y]) ++ rest →
    let c := s.cfg
    let w := (m &&& ~~~c.chip.mode.mask) ||| selectorBits c c.sel.tx
    exec .endpkt s = .next
      { afterEvents s rest
          (rmwEvents c c.chip.opMode c.chip.mode.mask (selectorBits c c.sel.tx) m x ++
           polls.map (readEvent c c.chip.irqFlags) ++
           [readEvent c c.chip.irqFlags v, writeEvent c c.chip.irqFlags c.chip.txDone.mask y, okEvent 0])
        with modeShadow := some ((w &&& ~~~c.chip.mode.mask) ||| selectorBits c c.sel.standby) }

/-- `ENDPKT` without TX-done: at the limit `ERR_TIMEOUT` with no further transfer and the shadow at TX; below the limit,
or without one, the unit goes on polling, busy (spec/43_packet_tx.md R144, spec/70_reset_and_hazards.md R227). -/
def Obligations.EndpktWithoutTxDone : Prop :=
  ∀ (s : State) (m x : Byte) (polls : List Byte) (rest : List Input),
    s.ustate = .ready → (∀ u ∈ polls, u &&& s.cfg.chip.txDone.mask = 0) →
    let c := s.cfg
    let w := (m &&& ~~~c.chip.mode.mask) ||| selectorBits c c.sel.tx
    let events := rmwEvents c c.chip.opMode c.chip.mode.mask (selectorBits c c.sel.tx) m x ++
      polls.map (readEvent c c.chip.irqFlags)
    (∀ n, c.txPollLimit = some n → 0 < n → polls.length = n → s.inputs = busAnswers ([m, x] ++ polls) ++ rest →
      exec .endpkt s = .next
        { afterEvents s rest (events ++ [.response .errTimeout 0 []]) with modeShadow := some w }) ∧
    ((∀ n, c.txPollLimit = some n → polls.length < n) → s.inputs = busAnswers ([m, x] ++ polls) →
      exec .endpkt s = .next
        { afterEvents s [] events with modeShadow := some w, seq := .fg .endpkt ([m, x] ++ polls) })

/-- With a finite limit `ENDPKT` ends, within that many flag reads, whatever the chip answers
(spec/43_packet_tx.md R144, spec/70_reset_and_hazards.md R227). -/
def Obligations.EndpktEndsWithinLimit : Prop :=
  ∀ (s : State) (n : Nat) (bs : List Byte),
    s.cfg.legal = true → s.cfg.txPollLimit = some n → s.inputs = busAnswers bs → n + 3 ≤ bs.length →
    ∃ t new, exec .endpkt s = .next t ∧ t.seq = .idle ∧ t.log = s.log ++ new ∧
      (new.filter (isReadOf s.cfg s.cfg.chip.irqFlags)).length ≤ n

/-- Every other command ends after at most 258 answers, with packets of at most 255 bytes
(spec/70_reset_and_hazards.md R230): `ENDPKT` is the only liveness question. -/
def Obligations.OtherCommandsEnd : Prop :=
  ∀ (i : Instr) (s : State) (bs : List Byte),
    i ≠ .endpkt → s.cfg.maxPkt ≤ 255 → s.inputs = busAnswers bs → 258 ≤ bs.length → ∃ t, exec i s = .next t ∧ t.seq = .idle

/-- `RECEIVE`: the header mode for the size (with the expected length where it is not 0), then RX-CONTINUOUS
(spec/44_packet_rx.md R150, R151). -/
def Obligations.ReceiveEntersContinuous : Prop :=
  ∀ (s : State) (size g x z m y : Byte) (rest : List Input),
    s.ustate = .ready → s.inputs = busAnswers (headerAnswers size g x z ++ [m, y]) ++ rest →
    let c := s.cfg
    exec (.receive size) s = .next
      { afterEvents s rest
          (headerEvents c size g x z ++
           rmwEvents c c.chip.opMode c.chip.mode.mask (selectorBits c c.sel.rxCont) m y ++ [okEvent 0])
        with
          implicitShadow := decide (size ≠ 0),
          modeShadow := some ((m &&& ~~~c.chip.mode.mask) ||| selectorBits c c.sel.rxCont) }

/-- `RXPOLL` with RX-done alone: the flags are written back as read and the answer is 1; the mode is not touched
(spec/44_packet_rx.md R152). -/
def Obligations.RxpollReportsLonePacket : Prop :=
  ∀ (s : State) (size g x z y : Byte) (rest : List Input),
    s.ustate = .ready →
    s.inputs = busAnswers (headerAnswers size g x z ++ [s.cfg.chip.rxDone.mask, y]) ++ rest →
    let c := s.cfg
    exec (.rxpoll size) s = .next
      { afterEvents s rest
          (headerEvents c size g x z ++
           [readEvent c c.chip.irqFlags c.chip.rxDone.mask, writeEvent c c.chip.irqFlags c.chip.rxDone.mask y, okEvent 1])
        with implicitShadow := decide (size ≠ 0) }

/-- `RXPOLL` with any other flags: they are written back as read, the answer is 0, and RX-SINGLE is re-armed unless the
chip shows it (spec/44_packet_rx.md R152). -/
def Obligations.RxpollRearmsSingle : Prop :=
  ∀ (s : State) (size g x z v y m m' u : Byte) (rest : List Input),
    s.ustate = .ready → v ≠ s.cfg.chip.rxDone.mask →
    let c := s.cfg
    let events := headerEvents c size g x z ++
      [readEvent c c.chip.irqFlags v, writeEvent c c.chip.irqFlags v y, readEvent c c.chip.opMode m]
    (fieldGet c.chip.mode m = c.sel.rxSingle.setWidth 8 → s.inputs = busAnswers (headerAnswers size g x z ++ [v, y, m]) ++ rest →
      exec (.rxpoll size) s = .next
        { afterEvents s rest (events ++ [okEvent 0]) with implicitShadow := decide (size ≠ 0) }) ∧
    (fieldGet c.chip.mode m ≠ c.sel.rxSingle.setWidth 8 → s.inputs = busAnswers (headerAnswers size g x z ++ [v, y, m, m', u]) ++ rest →
      exec (.rxpoll size) s = .next
        { afterEvents s rest
            (events ++ rmwEvents c c.chip.opMode c.chip.mode.mask (selectorBits c c.sel.rxSingle) m' u ++ [okEvent 0])
          with
            implicitShadow := decide (size ≠ 0),
            modeShadow := some ((m' &&& ~~~c.chip.mode.mask) ||| selectorBits c c.sel.rxSingle) })

/-- `RDPAYLOAD`: the FIFO pointer to the address the chip reports, the length from the register of the header mode, then
that many FIFO bytes in order; the response carries them (spec/44_packet_rx.md R155, R156). -/
def Obligations.RdpayloadReturnsPayload : Prop :=
  ∀ (s : State) (a x len : Byte) (p : List Byte) (rest : List Input),
    s.ustate = .ready → p.length = len.toNat → s.inputs = busAnswers ([a, x, len] ++ p) ++ rest →
    let c := s.cfg
    let lenReg := if s.implicitShadow then c.chip.payloadLength else c.chip.rxNbBytes
    exec .rdpayload s = .next
      (afterEvents s rest
        ([readEvent c c.chip.fifoRxCurrent a, writeEvent c c.chip.fifoAddrPtr a x, readEvent c lenReg len] ++
         p.map (readEvent c c.chip.fifo) ++ [.response .ok (BitVec.ofNat 32 len.toNat) p]))

/-- `PKTRSSI`: the raw byte minus `RSSI_OFFSET_LOW` below `RSSI_SPLIT_HZ` and `RSSI_OFFSET_HIGH` from there on, as a
signed number (offsets up to 2^31); without a frequency shadow `ERR_STATE` and no transfer
(spec/44_packet_rx.md R158). -/
def Obligations.PktrssiSubtractsOffset : Prop :=
  ∀ (s : State) (raw : Byte) (rest : List Input), s.ustate = .ready →
    (∀ f, s.freqShadow = some f → s.inputs = busAnswers [raw] ++ rest →
      ∃ r : BitVec 32,
        exec .pktrssi s = .next (afterEvents s rest [readEvent s.cfg s.cfg.chip.pktRssi raw, okEvent r]) ∧
        (f.toNat < s.cfg.rssiSplitHz → s.cfg.rssiOffsetLow ≤ 2 ^ 31 →
          r.toInt = (raw.toNat : Int) - s.cfg.rssiOffsetLow) ∧
        (s.cfg.rssiSplitHz ≤ f.toNat → s.cfg.rssiOffsetHigh ≤ 2 ^ 31 →
          r.toInt = (raw.toNat : Int) - s.cfg.rssiOffsetHigh)) ∧
    (s.freqShadow = none →
      exec .pktrssi s = .next (afterEvents s s.inputs [.response .errState 0 []]))

/-- `PKTSNR`: the raw byte as a signed number of quarter-dB (spec/44_packet_rx.md R160). -/
def Obligations.PktsnrSignExtends : Prop :=
  ∀ (s : State) (raw : Byte) (rest : List Input),
    s.ustate = .ready → s.inputs = busAnswers [raw] ++ rest →
    ∃ r : BitVec 32, r.toInt = raw.toInt ∧
      exec .pktsnr s = .next (afterEvents s rest [readEvent s.cfg s.cfg.chip.pktSnr raw, okEvent r])

/-- `ONRECV 1` arms and keeps a pending edge; `ONRECV 0` disarms and drops it; neither makes a transfer
(spec/44_packet_rx.md R162). -/
def Obligations.OnrecvArmsAndDisarms : Prop :=
  ∀ s : State, s.ustate = .ready →
    exec (.onrecv true) s = .next { afterEvents s s.inputs [.arm, okEvent 0] with cbArmed := true } ∧
    exec (.onrecv false) s = .next
      { afterEvents s s.inputs [.disarm, okEvent 0] with cbArmed := false, irqPending := false }

/-! ## Errors, resets and edges inside a sequence -/

/-- A `BusError` ends the sequence at the failing transfer: a command answers `ERR_BUS`, a handler sequence emits
`IrqAbort(ERR_BUS)` and no callback; nothing else changes (spec/20_memory.md R44, spec/60_exceptions.md R182, R192). -/
def Obligations.BusErrorEndsSequence : Prop :=
  ∀ (s : State) (a d : Byte) (rest : List Input),
    busRequest s = some (a, d) → s.inputs = .bus .error :: rest →
    (∀ cmd trail, s.seq = .fg cmd trail →
      step s = .next (afterEvents s rest [.xfer a d .error, .response .errBus 0 []])) ∧
    (∀ trail, s.seq = .irq trail →
      step s = .next
        { afterEvents s rest [.xfer a d .error, .callback (.irqAbort .errBus)]
          with callbackPort := some (.irqAbort .errBus) })

/-- `rst` puts every element at its reset value and issues `disarm`: an idle unit takes it before it starts a handler or a
command, a sequence that waits is abandoned without response or event. The record of the outstanding transfer, the empty
callback port and what stays at the other ports are log entry 6 (spec/70_reset_and_hazards.md R210). -/
def Obligations.RstAbandonsSequence : Prop :=
  ∀ (s : State) (rest : List Input), s.inputs = .rst :: rest →
    (∀ a d, busRequest s = some (a, d) →
      step s = .next { State.reset with log := s.log ++ [.abandoned a d, .disarm], inputs := rest,
                                        cmdWords := s.cmdWords, cmdBytes := s.cmdBytes, cfg := s.cfg }) ∧
    (s.seq = .idle →
      step s = .next { State.reset with log := s.log ++ [.disarm], inputs := rest,
                                        cmdWords := s.cmdWords, cmdBytes := s.cmdBytes, cfg := s.cfg })

/-- A rising edge sets the pending bit while the callback is armed and does nothing otherwise, while the unit is idle,
inside a command and inside the handler; a second edge merges (spec/60_exceptions.md R187). -/
def Obligations.EdgeIsLatched : Prop :=
  ∀ s : State, s.inputs = [.dio0Rise] →
    ((s.ready = true ∧ s.cmdWords = []) ∨ (busRequest s).isSome) →
    step s = .next { s with inputs := [], irqPending := s.irqPending || s.cbArmed }

/-- The handler with the CRC-error flag set: two steps with one transfer each, no payload, no event, and the commands the
host presents wait (spec/60_exceptions.md R188, R189, spec/20_memory.md R45). -/
def Obligations.HandlerDropsCrcError : Prop :=
  ∀ (s : State) (v x : Byte) (rest : List Input),
    s.seq = .idle → s.irqPending = true → v &&& s.cfg.chip.crcError.mask ≠ 0 →
    s.inputs = busAnswers [v, x] ++ rest →
    runSteps 2 s = some
      { afterEvents s rest [readEvent s.cfg s.cfg.chip.irqFlags v, writeEvent s.cfg s.cfg.chip.irqFlags v x]
        with irqPending := false }

/-- The handler with the CRC-error flag clear: the flags are written back, the payload is extracted and one event carries
it, whatever the other flags are and even where it is empty; it replaces an event not taken (log entry 8). The sequence takes 5 steps
and one for each byte, each resuming it for one transfer (spec/60_exceptions.md R189, R190, spec/20_memory.md R45). -/
def Obligations.HandlerDeliversPayload : Prop :=
  ∀ (s : State) (v x a y len : Byte) (p : List Byte) (rest : List Input),
    s.seq = .idle → s.irqPending = true → v &&& s.cfg.chip.crcError.mask = 0 → p.length = len.toNat →
    s.inputs = busAnswers ([v, x, a, y, len] ++ p) ++ rest →
    let c := s.cfg
    let lenReg := if s.implicitShadow then c.chip.payloadLength else c.chip.rxNbBytes
    runSteps (5 + len.toNat) s = some
      { afterEvents s rest
          ([readEvent c c.chip.irqFlags v, writeEvent c c.chip.irqFlags v x, readEvent c c.chip.fifoRxCurrent a,
            writeEvent c c.chip.fifoAddrPtr a y, readEvent c lenReg len] ++
           p.map (readEvent c c.chip.fifo) ++ [.callback (.payload p)])
        with irqPending := false, callbackPort := some (.payload p) }

/-- The handler starts when the unit is idle with an edge pending, before any command presented; a step enters it from
nowhere else, never from inside a command; a command starts only in a ready unit; and a unit that is not ready leaves the
words on the port (spec/60_exceptions.md R188, spec/30_encoding.md R70). That it takes no data byte from the stream either,
so that a running `WRITE` takes none, is the model's choice (log entry 5). -/
def Obligations.HandlerServedBeforeCommands : Prop :=
  (∀ s : State, s.seq = .idle → s.irqPending = true → s.inputs = [] →
    step s = .next { s with irqPending := false, seq := .irq [] }) ∧
  (∀ (s t : State) (trail : List Byte), step s = .next t → t.seq = .irq trail →
    (s.seq = .idle ∧ s.irqPending = true) ∨ ∃ before, s.seq = .irq before) ∧
  (∀ (s t : State) (cmd : Instr) (trail : List Byte), step s = .next t → t.seq = .fg cmd trail →
    s.ready = true ∨ ∃ before, s.seq = .fg cmd before) ∧
  (∀ s t : State, step s = .next t → s.ready = false →
    s.cmdWords <+: t.cmdWords ∧ s.cmdBytes <+: t.cmdBytes)

/-! ## The whole machine -/

/-- No step takes an event back or changes a parameter, each makes at most one transfer, and every transfer has the
address byte of a write, or that of a read with `READ_DUMMY` (spec/20_memory.md R41 to R43, R45, R57). -/
def Obligations.TransfersAreFramedAndKept : Prop :=
  ∀ s t : State, step s = .next t →
    t.cfg = s.cfg ∧ ∃ new, t.log = s.log ++ new ∧ (new.filter isTransfer).length ≤ 1 ∧
      (s.cfg.legal = true → ∀ e ∈ new, Framed s.cfg e)

/-- A command that no reset cuts short produces exactly one response, as its last event, when it ends, and none before
(spec/30_encoding.md R74). -/
def Obligations.OneResponseAfterLastTransfer : Prop :=
  ∀ (i : Instr) (s t : State), .rst ∉ s.inputs → exec i s = .next t →
    ∃ new, t.log = s.log ++ new ∧
      ((t.seq = .idle ∧ ∃ events st r d, new = events ++ [.response st r d] ∧ ∀ e ∈ events, isResponse e = false) ∨
       (∃ trail, t.seq = .fg i trail ∧ t.inputs = [] ∧ ∀ e ∈ new, isResponse e = false))

/-- In the transfers of every command and of the handler, a write that changes the long-range bit from the byte last seen
follows a write whose selector is SLEEP (spec/41_mode_control.md R114). -/
def Obligations.LongRangeGateHolds : Prop :=
  (∀ (i : Instr) (s t : State), s.cfg.legal = true → exec i s = .next t →
    ∃ new, t.log = s.log ++ new ∧ longRangeGate s.cfg none new = true) ∧
  (∀ s : State, s.cfg.legal = true →
    ∃ new, (runHandler s).log = s.log ++ new ∧ longRangeGate s.cfg none new = true)

/-- The position held in `u.seq` loses nothing (spec/10_state.md R19, spec/20_memory.md R45). A command that waited, and a
handler sequence that waited, go on as they would have gone on had the inputs all been there; and steps that make one
transfer each bring a ready unit to where `exec` brings the command, and an idle unit with an edge pending to where
`runHandler` brings the handler. That the position is the bytes answered so far is log entry 3 (DEDUCED); what a step takes
beside its transfer is the model's choice (log entry 12), as is the list of inputs (log entry 1). -/
def Obligations.SuspendedCommandResumes : Prop :=
  (∀ (i : Instr) (s t : State) (trail : List Byte) (more : List Input),
    exec i s = .next t → t.seq = .fg i trail →
    exec i { s with inputs := s.inputs ++ more } = .next (resumeCommand i trail { t with inputs := more })) ∧
  (∀ (s : State) (trail : List Byte) (more : List Input), (runHandler s).seq = .irq trail →
    runHandler { s with inputs := s.inputs ++ more } = resumeHandler trail { runHandler s with inputs := more }) ∧
  (∀ (s t : State) (w : CmdWord) (ws : List CmdWord) (i : Instr),
    s.ready = true → rstAsserted s = false → s.cmdWords = w :: ws → decode s.cfg.op w s.cmdBytes = .ok i →
    exec i { s with cmdWords := ws, cmdBytes := s.cmdBytes.drop (dataCount s.cfg.op w) } = .next t →
    ∃ n, 0 < n ∧ runSteps n s = some t) ∧
  (∀ s : State, s.seq = .idle → s.irqPending = true → rstAsserted s = false →
    ∃ n, 0 < n ∧ runSteps n s = some (runHandler s))

/-- Edges inside a command change the pending bit and nothing else: with the edges taken out of the inputs the command
ends in the same state, but for that bit (spec/60_exceptions.md R187, R188). -/
def Obligations.EdgesOnlyLatch : Prop :=
  ∀ (i : Instr) (s t u : State), exec i s = .next t →
    exec i { s with inputs := s.inputs.filter (fun e => decide (e ≠ .dio0Rise)) } = .next u →
    { t with irqPending := false, inputs := t.inputs.filter (fun e => decide (e ≠ .dio0Rise)) } =
      { u with irqPending := false }

/-- A command that no reset cuts short writes a shadow or the callback registration only where its rule says so; the
frequency shadow takes the operand of a `SETFREQ` exactly when it answers `OK`; only `INIT` moves the lifecycle state
(spec/10_state.md R12 to R17). -/
def Obligations.ShadowsWrittenByTheirCommands : Prop :=
  ∀ (i : Instr) (s t : State), .rst ∉ s.inputs → exec i s = .next t →
    (writesModeShadow i = false → t.modeShadow = s.modeShadow) ∧
    (writesImplicitShadow i = false → t.implicitShadow = s.implicitShadow) ∧
    (writesCbArmed i = false → t.cbArmed = s.cbArmed) ∧
    (i ≠ .init → t.ustate = s.ustate) ∧
    ((∀ f, i ≠ .setfreq f) → t.freqShadow = s.freqShadow) ∧
    (∀ f, i = .setfreq f →
      (t.seq = .idle ∧ t.log.getLast? = some (okEvent 0) ∧ t.freqShadow = some f) ∨
      (¬ (t.seq = .idle ∧ t.log.getLast? = some (okEvent 0)) ∧ t.freqShadow = s.freqShadow))

/-- Payload integrity: against a chip that keeps the premises, `BEGINPKT` and any `WRITE`s leave the accepted bytes in
the FIFO from the TX base on, in order, with the length register at their number; the accepted bytes are the first
`MAX_PKT - FIFO_TX_BASE` of all the bytes (spec/43_packet_tx.md R143). The log shows the long-range bit set, without which
the addresses hold other registers (spec/70_reset_and_hazards.md R229). The view of the chip and the premises are the
model's (log entry 9). -/
def Obligations.PayloadIntegrity : Prop :=
  ∀ (s t : State) (blocks : List (List Byte)), s.cfg.legal = true →
    runToOk (.beginpkt :: blocks.map .write) s = some t →
    chipHonest s.cfg .unknown t.log = true → (chipView s.cfg t.log).faulted = false →
    loraDuty s.cfg (chipView s.cfg t.log) = true →
    let view := chipView s.cfg t.log
    let sent := blocks.flatten.take (s.cfg.maxPkt - s.cfg.fifoTxBase.toNat)
    view.stored.read s.cfg.chip.payloadLength.toNat = some (BitVec.ofNat 8 sent.length) ∧
    (∀ j (h : j < sent.length), view.fifo.read (s.cfg.fifoTxBase.toNat + j) = some sent[j]) ∧
    view.fifoPtr = some (BitVec.ofNat 8 (s.cfg.fifoTxBase.toNat + sent.length))

/-- Frequency round trip: against a chip that keeps the premises, reading the three frequency registers after `SETFREQ f`
gives a code whose frequency is at most `f` and less than one step below it (spec/42_rf_config.md R120). The log shows the
long-range bit set (spec/70_reset_and_hazards.md R229), and the mode in which `SETFREQ` is issued, where the log shows it,
is one the chip does not leave by itself (R222). The view of the chip and the premises are the model's (log
entry 9). -/
def Obligations.FrequencyRoundTrip : Prop :=
  ∀ (s t : State) (f : BitVec 32), s.cfg.legal = true → s.cfg.fxoscHz = 32000000 → s.cfg.frfShift = 19 →
    runToOk [.setfreq f, .rdreg s.cfg.chip.frfMsb, .rdreg s.cfg.chip.frfMid, .rdreg s.cfg.chip.frfLsb] s = some t →
    chipHonest s.cfg .unknown t.log = true → (chipView s.cfg t.log).faulted = false →
    loraDuty s.cfg (chipView s.cfg t.log) = true →
    ((chipView s.cfg s.log).opMode ≠ none → steadyModeDuty s.cfg (chipView s.cfg s.log) (.setfreq f) = true) →
    ∃ r2 r1 r0 : BitVec 32, okResults t.log = okResults s.log ++ [0, r2, r1, r0] ∧
      (r2.toNat * 65536 + r1.toNat * 256 + r0.toNat) * 15625 ≤ f.toNat * 256 ∧
      f.toNat * 256 < (r2.toNat * 65536 + r1.toNat * 256 + r0.toNat + 1) * 15625

/-- What a log tells of the chip is kept in canonical form: the addresses of each byte list rise strictly
(the model's own structure, log entry 9; spec/20_memory.md R47, R49). -/
def Obligations.ChipViewKeepsCanonicalForm : Prop :=
  ∀ (c : UnitCfg) (log : List Event),
    (chipView c log).stored.wf = true ∧ (chipView c log).fifo.wf = true

/-! ## The functions -/

/-- `FreqCode` at the source's crystal and exponent, which are the default parameters: it truncates, fits 24 bits exactly
below 1 024 000 000 Hz, and is within one step; a larger frequency is refused before it is used
(spec/42_rf_config.md R120). -/
def Obligations.FreqCodeTruncates : Prop :=
  UnitCfg.default.fxoscHz = 32000000 ∧ UnitCfg.default.frfShift = 19 ∧ UnitCfg.default.frfW = 24 ∧
  ∀ (c : UnitCfg) (f : BitVec 32), c.fxoscHz = 32000000 → c.frfShift = 19 → c.frfW = 24 →
    (f.toNat * 256 / 15625 < 2 ^ 24 ↔ f.toNat < 1024000000) ∧
    (f.toNat < 1024000000 →
      (freqCode c f).toNat = f.toNat * 256 / 15625 ∧
      (freqCode c f).toNat * 15625 ≤ f.toNat * 256 ∧ f.toNat * 256 < ((freqCode c f).toNat + 1) * 15625) ∧
    (1024000000 ≤ f.toNat → ∀ s : State, s.cfg = c → s.seq = .idle →
      exec (.setfreq f) s = .next { s with log := s.log ++ [.response .errArg 0 []] })

/-- `Quantize` picks the least bin that reaches the request, else the last; the default bins are the ten of the source,
and there the index is 0 to 9 (spec/42_rf_config.md R123). -/
def Obligations.QuantizeTakesCeiling : Prop :=
  UnitCfg.default.bwBins = [7800, 10400, 15600, 20800, 31250, 41700, 62500, 125000, 250000, 500000] ∧
  ∀ (c : UnitCfg) (b : BitVec 32), c.bwBins ≠ [] →
    quantize c b < c.bwBins.length ∧
    ((∃ bin ∈ c.bwBins, b.toNat ≤ bin) →
      (∃ bin, c.bwBins[quantize c b]? = some bin ∧ b.toNat ≤ bin) ∧
      ∀ j, j < quantize c b → ∃ bin, c.bwBins[j]? = some bin ∧ bin < b.toNat) ∧
    ((∀ bin ∈ c.bwBins, bin < b.toNat) → quantize c b = c.bwBins.length - 1)

/-- The power byte: the boosted path adds the boost bits to the level clamped to its limits, less 2; the low-power path
adds its constant bits to the level clamped to its limits; the level is signed. The default limits and bits are those of
the source (spec/42_rf_config.md R122). -/
def Obligations.PowerByteClamps : Prop :=
  (let d := UnitCfg.default
   (d.pwrBoostMin, d.pwrBoostMax, d.pwrRfoMin, d.pwrRfoMax) = (2, 17, 0, 14) ∧ d.paRfoBits = 0x70) ∧
  ∀ (c : UnitCfg) (level : Byte), c.legal = true →
    ((powerByte c level true).toNat : Int) =
      c.paBoostBits.toNat + (max c.pwrBoostMin (min c.pwrBoostMax level.toInt) - 2) ∧
    ((powerByte c level false).toNat : Int) = c.paRfoBits.toNat + max c.pwrRfoMin (min c.pwrRfoMax level.toInt)

/-- The textual examples assemble to the words the spec writes beside them, and two pseudo-commands to their expansions
(spec/30_encoding.md R81, R82). -/
def Obligations.TextAssemblesToExampleWords : Prop :=
  (assembleLine "SETFREQ 868000000").map (List.map (encode .default)) = some [(0x2033BCA100, [])] ∧
  (assembleLine "SETTXPWR 17, 1").map (List.map (encode .default)) = some [(0x2100000111, [])] ∧
  (assembleLine "SETTXPWR -3, 0").map (List.map (encode .default)) = some [(0x21000000FD, [])] ∧
  (assembleLine "WRREG 0x39, 0x34").map (List.map (encode .default)) = some [(0x0300003439, [])] ∧
  (assembleLine "WRITE \"Hi\"").map (List.map (encode .default)) = some [(0x3100000002, [0x48, 0x69])] ∧
  assembleLine "SETFREQK 868000, 100 ; kHz and Hz" = some [.setfreq 868000100] ∧
  assembleLine "SEND 0x48, 0x69" = some [.beginpkt, .write [0x48, 0x69], .endpkt] ∧
  wordText 0x2033BCA100 = "2033BCA100"
end

