-- ==== Sys2Proof/Laws/Encoding.lean ====
section
/-! SUPPORT. The small lemmas of the word format and of the opcode map, for the decoder and the encoder. -/

namespace Sys2Proof

/-! ## The two fields of a word (spec/30_encoding.md R71) -/

@[simp] theorem opField_append (op : Byte) (arg : BitVec 32) : opField (op ++ arg : BitVec 40) = op := by
  apply BitVec.eq_of_getLsbD_eq
  intro i hi
  simp only [opField, BitVec.getLsbD_extractLsb', BitVec.getLsbD_append, hi, decide_true, Bool.true_and]
  rw [if_neg (by omega)]
  congr 1
  omega

@[simp] theorem argField_append (op : Byte) (arg : BitVec 32) : argField (op ++ arg : BitVec 40) = arg := by
  apply BitVec.eq_of_getLsbD_eq
  intro i hi
  simp only [argField, BitVec.getLsbD_extractLsb', BitVec.getLsbD_append, hi, decide_true, Bool.true_and]
  rw [if_pos (by omega)]
  congr 1
  omega

/-- A word is its two fields. -/
theorem opField_append_argField (w : CmdWord) : (opField w ++ argField w : BitVec 40) = w := by
  apply BitVec.eq_of_getLsbD_eq
  intro i hi
  simp only [opField, argField, BitVec.getLsbD_extractLsb', BitVec.getLsbD_append]
  split
  · simp_all
  · have h : i - 32 < 8 := by omega
    simp only [h, decide_true, Bool.true_and]
    congr 1
    omega

@[simp] theorem opField_encodeWord (o : Opcodes) (i : Instr) : opField (encodeWord o i) = o.of i.mnemonic :=
  opField_append _ _

@[simp] theorem argField_encodeWord (o : Opcodes) (i : Instr) : argField (encodeWord o i) = argOf i :=
  argField_append _ _

/-! ## The opcode map (spec/30_encoding.md R76) -/

theorem Mnemonic.mem_all (k : Mnemonic) : k ∈ Mnemonic.all := by cases k <;> decide

/-- The command found has this opcode. -/
theorem Opcodes.of_find {o : Opcodes} {op : Byte} {k : Mnemonic} (h : o.find op = some k) : o.of k = op := by
  simpa using List.find?_some h

/-- An opcode is illegal exactly where it is none of the 24 (spec/30_encoding.md R77). -/
theorem Opcodes.find_eq_none {o : Opcodes} {op : Byte} : o.find op = none ↔ op ∉ o.codes := by
  simp only [Opcodes.find, List.find?_eq_none, Opcodes.codes, List.mem_map, decide_eq_true_eq]
  constructor
  · rintro h ⟨k, hk, rfl⟩; exact h k hk rfl
  · rintro h k hk rfl; exact h ⟨k, hk, rfl⟩

/-- Where the opcodes differ, each is found. -/
theorem Opcodes.find_of {o : Opcodes} (h : o.codes.Nodup) (k : Mnemonic) : o.find (o.of k) = some k := by
  cases hf : o.find (o.of k) with
  | none => exact absurd (List.mem_map_of_mem (Mnemonic.mem_all k)) (Opcodes.find_eq_none.1 hf)
  | some k' =>
    have he := Opcodes.of_find hf
    exact congrArg some (List.inj_on_of_nodup_map h (Mnemonic.mem_all k') (Mnemonic.mem_all k) he)

/-! ## Decoding a word -/

/-- Decoding is decoding the operands of the command found, and nothing else. -/
theorem decode_of_find {o : Opcodes} {w : CmdWord} {k : Mnemonic} (h : o.find (opField w) = some k)
    (stream : List Byte) : decode o w stream = decodeOperands k (argField w) stream := by
  simp only [decode, h]

/-- A word that decodes has the opcode of its command. -/
theorem decode_ok_find {o : Opcodes} {w : CmdWord} {stream : List Byte} {i : Instr} (h : decode o w stream = .ok i) :
    o.find (opField w) = some i.mnemonic := by
  unfold decode at h
  split at h
  · cases h
  · rename_i k hk
    rw [hk]
    congr 1
    cases k <;> simp only [decodeOperands, reserved] at h <;> (repeat' split at h) <;> cases h <;> rfl

end Sys2Proof
end

