-- ==== Sys2Proof/Laws/Memory.lean ====
section
/-! SUPPORT. The laws of the canonical byte lists of Machine/Chip.lean: read after write, the frame, and the canonical
form kept by every operation; the small lemmas of the chip view. -/

namespace Sys2Proof.Machine

/-- Every listed address is above `a`. -/
def Memory.above (a : Nat) (mem : Memory) : Prop := ∀ c ∈ mem, a < c.1

theorem Memory.wf_cons {a : Nat} {v : Byte} {mem : Memory} :
    Memory.wf ((a, v) :: mem) = true ↔ Memory.above a mem ∧ mem.wf = true := by
  induction mem generalizing a v with
  | nil => simp [Memory.wf, Memory.above]
  | cons c rest ih =>
    obtain ⟨b, y⟩ := c
    simp only [Memory.wf, Bool.and_eq_true, decide_eq_true_eq]
    constructor
    · rintro ⟨hab, hw⟩
      refine ⟨?_, hw⟩
      intro c hc
      rcases List.mem_cons.1 hc with rfl | hc
      · exact hab
      · exact lt_trans hab ((ih.1 hw).1 c hc)
    · rintro ⟨ha, hw⟩
      exact ⟨ha (b, y) (by simp), hw⟩

theorem Memory.above_write {a x : Nat} {v : Byte} {mem : Memory} (h : Memory.above a mem) (hx : a < x) :
    Memory.above a (mem.write x v) := by
  induction mem with
  | nil => intro c hc; simp [Memory.write] at hc; subst hc; exact hx
  | cons c rest ih =>
    obtain ⟨b, y⟩ := c
    have hrest : Memory.above a rest := fun c hc => h c (List.mem_cons_of_mem _ hc)
    have hb : a < b := h (b, y) (by simp)
    simp only [Memory.write]
    split
    · intro c hc; rcases List.mem_cons.1 hc with rfl | hc
      · exact hx
      · exact h c hc
    · split
      · intro c hc; rcases List.mem_cons.1 hc with rfl | hc
        · exact hx
        · exact hrest c hc
      · intro c hc; rcases List.mem_cons.1 hc with rfl | hc
        · exact hb
        · exact ih hrest c hc

theorem Memory.above_erase {a x : Nat} {mem : Memory} (h : Memory.above a mem) : Memory.above a (mem.erase x) := by
  induction mem with
  | nil => exact h
  | cons c rest ih =>
    obtain ⟨b, y⟩ := c
    have hrest : Memory.above a rest := fun c hc => h c (List.mem_cons_of_mem _ hc)
    simp only [Memory.erase]
    split
    · exact hrest
    · intro c hc; rcases List.mem_cons.1 hc with rfl | hc
      · exact h _ (by simp)
      · exact ih hrest c hc

/-- A write keeps the canonical form. -/
theorem Memory.wf_write {mem : Memory} (h : mem.wf = true) (a : Nat) (v : Byte) : (mem.write a v).wf = true := by
  induction mem with
  | nil => rfl
  | cons c rest ih =>
    obtain ⟨b, y⟩ := c
    obtain ⟨hb, hw⟩ := Memory.wf_cons.1 h
    simp only [Memory.write]
    split
    · rename_i hab
      refine Memory.wf_cons.2 ⟨?_, h⟩
      intro c hc; rcases List.mem_cons.1 hc with rfl | hc
      · exact hab
      · exact lt_trans hab (hb c hc)
    · split
      · rename_i hab; subst hab; exact Memory.wf_cons.2 ⟨hb, hw⟩
      · exact Memory.wf_cons.2 ⟨Memory.above_write hb (by omega), ih hw⟩

/-- Forgetting keeps the canonical form. -/
theorem Memory.wf_erase {mem : Memory} (h : mem.wf = true) (a : Nat) : (mem.erase a).wf = true := by
  induction mem with
  | nil => rfl
  | cons c rest ih =>
    obtain ⟨b, y⟩ := c
    obtain ⟨hb, hw⟩ := Memory.wf_cons.1 h
    simp only [Memory.erase]
    split
    · exact hw
    · exact Memory.wf_cons.2 ⟨Memory.above_erase hb, ih hw⟩

/-- A read after a write to the same address gives the byte written. -/
@[simp] theorem Memory.read_write_same (mem : Memory) (a : Nat) (v : Byte) : (mem.write a v).read a = some v := by
  induction mem with
  | nil => simp [Memory.write, Memory.read]
  | cons c rest ih =>
    obtain ⟨b, y⟩ := c
    simp only [Memory.write]
    split
    · simp [Memory.read]
    · split
      · simp [Memory.read]
      · rename_i h; simp [Memory.read, h, ih]

/-- A write leaves every other address alone. -/
theorem Memory.read_write_other (mem : Memory) {a x : Nat} (v : Byte) (h : x ≠ a) :
    (mem.write a v).read x = mem.read x := by
  induction mem with
  | nil => simp [Memory.write, Memory.read, h]
  | cons c rest ih =>
    obtain ⟨b, y⟩ := c
    simp only [Memory.write]
    split
    · simp [Memory.read, h]
    · split
      · rename_i hab; subst hab; simp [Memory.read, h]
      · simp [Memory.read, ih]

/-! ## Forgetting, and the operating mode -/

@[simp] theorem forget_stored (v : ChipView) : v.forget.stored = [] := rfl
@[simp] theorem forget_fifoPtr (v : ChipView) : v.forget.fifoPtr = none := rfl
@[simp] theorem forget_fifo (v : ChipView) : v.forget.fifo = [] := rfl
@[simp] theorem forget_flagsSet (v : ChipView) : v.forget.flagsSet = 0 := rfl
@[simp] theorem forget_opMode (v : ChipView) : v.forget.opMode = v.opMode := rfl
@[simp] theorem forget_tx (v : ChipView) : v.forget.tx = .outside := rfl
@[simp] theorem forget_faulted (v : ChipView) : v.forget.faulted = v.faulted := rfl

@[simp] theorem modeWritten_opMode (c : UnitCfg) (v : ChipView) (w : Byte) : (v.modeWritten c w).opMode = some w := rfl
@[simp] theorem modeWritten_faulted (c : UnitCfg) (v : ChipView) (w : Byte) :
    (v.modeWritten c w).faulted = (v.faulted || mayCorruptPll c v.opMode w) := rfl

/-- A read of the operating mode says which it is and faults nothing. -/
theorem modeRead_opMode (c : UnitCfg) (v : ChipView) (r : Byte) :
    (v.modeRead c r).opMode = some r ∧ (v.modeRead c r).faulted = v.faulted := by
  have h : (if showsLoss c v.opMode r then v.forget else v).faulted = v.faulted := by split <;> rfl
  simp only [ChipView.modeRead]
  split
  · exact ⟨rfl, h⟩
  · split <;> exact ⟨rfl, h⟩

end Sys2Proof.Machine
end

