-- ==== Sys2Proof/Laws/PerInstr.lean ====
section
/-! SUPPORT. A statement about every command, proved command by command: its word lies in its row of
spec/opcode_table.json (`match` under `mask`), and its data count is the number of its data bytes. -/

namespace Sys2Proof.Laws

/-- The row's `match` value (spec/opcode_table.json, spec/30_encoding.md R76). -/
def rowMatch : Instr → CmdWord
  | .init => 0x0100000000
  | .rdreg _ => 0x0200000000
  | .wrreg _ _ => 0x0300000000
  | .setmode _ => 0x1000000000
  | .setlr _ => 0x1100000000
  | .setfreq _ => 0x2000000000
  | .settxpwr _ _ => 0x2100000000
  | .setbw _ => 0x2200000000
  | .setsf _ => 0x2300000000
  | .setldr _ => 0x2400000000
  | .setcr _ => 0x2500000000
  | .setpreamble _ => 0x2600000000
  | .setsync _ => 0x2700000000
  | .setcrc _ => 0x2800000000
  | .setimpl _ => 0x2900000000
  | .beginpkt => 0x3000000000
  | .write _ => 0x3100000000
  | .endpkt => 0x3200000000
  | .receive _ => 0x4000000000
  | .rxpoll _ => 0x4100000000
  | .rdpayload => 0x4200000000
  | .pktrssi => 0x4300000000
  | .pktsnr => 0x4400000000
  | .onrecv _ => 0x4500000000

/-- Masking a word keeps its opcode and clears its operand field. -/
theorem mask_append (op : BitVec 8) (arg : BitVec 32) :
    ((op ++ arg : BitVec 40) &&& 0xFF00000000) = (op ++ (0 : BitVec 32) : BitVec 40) := by
  have h : (0xFF00000000 : BitVec 40) = ((BitVec.allOnes 8) ++ (0 : BitVec 32) : BitVec 40) := by decide
  rw [h]
  ext i hi
  simp only [BitVec.getElem_and, BitVec.getElem_append]
  split
  · simp
  · simp only [BitVec.getElem_allOnes, Bool.and_true]

/-- The family: the encoded word, masked, is the row's `match`. -/
def EncodesInRow.Statement (i : Instr) : Prop := encodeWord .default i &&& 0xFF00000000 = rowMatch i

theorem EncodesInRow.init : EncodesInRow.Statement .init :=
  (mask_append _ _).trans (by simp only [opcodeOf, Instr.mnemonic, rowMatch]; decide)
theorem EncodesInRow.rdreg (addr : Addr) : EncodesInRow.Statement (.rdreg addr) :=
  (mask_append _ _).trans (by simp only [opcodeOf, Instr.mnemonic, rowMatch]; decide)
theorem EncodesInRow.wrreg (addr : Addr) (value : Byte) : EncodesInRow.Statement (.wrreg addr value) :=
  (mask_append _ _).trans (by simp only [opcodeOf, Instr.mnemonic, rowMatch]; decide)
theorem EncodesInRow.setmode (sel : BitVec 3) : EncodesInRow.Statement (.setmode sel) :=
  (mask_append _ _).trans (by simp only [opcodeOf, Instr.mnemonic, rowMatch]; decide)
theorem EncodesInRow.setlr (en : Bool) : EncodesInRow.Statement (.setlr en) :=
  (mask_append _ _).trans (by simp only [opcodeOf, Instr.mnemonic, rowMatch]; decide)
theorem EncodesInRow.setfreq (f : BitVec 32) : EncodesInRow.Statement (.setfreq f) :=
  (mask_append _ _).trans (by simp only [opcodeOf, Instr.mnemonic, rowMatch]; decide)
theorem EncodesInRow.settxpwr (level : Byte) (boost : Bool) : EncodesInRow.Statement (.settxpwr level boost) :=
  (mask_append _ _).trans (by simp only [opcodeOf, Instr.mnemonic, rowMatch]; decide)
theorem EncodesInRow.setbw (b : BitVec 32) : EncodesInRow.Statement (.setbw b) :=
  (mask_append _ _).trans (by simp only [opcodeOf, Instr.mnemonic, rowMatch]; decide)
theorem EncodesInRow.setsf (sf : BitVec 4) : EncodesInRow.Statement (.setsf sf) :=
  (mask_append _ _).trans (by simp only [opcodeOf, Instr.mnemonic, rowMatch]; decide)
theorem EncodesInRow.setldr (ldr : BitVec 2) : EncodesInRow.Statement (.setldr ldr) :=
  (mask_append _ _).trans (by simp only [opcodeOf, Instr.mnemonic, rowMatch]; decide)
theorem EncodesInRow.setcr (den : BitVec 4) : EncodesInRow.Statement (.setcr den) :=
  (mask_append _ _).trans (by simp only [opcodeOf, Instr.mnemonic, rowMatch]; decide)
theorem EncodesInRow.setpreamble (len : BitVec 16) : EncodesInRow.Statement (.setpreamble len) :=
  (mask_append _ _).trans (by simp only [opcodeOf, Instr.mnemonic, rowMatch]; decide)
theorem EncodesInRow.setsync (sw : Byte) : EncodesInRow.Statement (.setsync sw) :=
  (mask_append _ _).trans (by simp only [opcodeOf, Instr.mnemonic, rowMatch]; decide)
theorem EncodesInRow.setcrc (en : Bool) : EncodesInRow.Statement (.setcrc en) :=
  (mask_append _ _).trans (by simp only [opcodeOf, Instr.mnemonic, rowMatch]; decide)
theorem EncodesInRow.setimpl (en : Bool) : EncodesInRow.Statement (.setimpl en) :=
  (mask_append _ _).trans (by simp only [opcodeOf, Instr.mnemonic, rowMatch]; decide)
theorem EncodesInRow.beginpkt : EncodesInRow.Statement .beginpkt :=
  (mask_append _ _).trans (by simp only [opcodeOf, Instr.mnemonic, rowMatch]; decide)
theorem EncodesInRow.write (data : List Byte) : EncodesInRow.Statement (.write data) :=
  (mask_append _ _).trans (by simp only [opcodeOf, Instr.mnemonic, rowMatch]; decide)
theorem EncodesInRow.endpkt : EncodesInRow.Statement .endpkt :=
  (mask_append _ _).trans (by simp only [opcodeOf, Instr.mnemonic, rowMatch]; decide)
theorem EncodesInRow.receive (size : Byte) : EncodesInRow.Statement (.receive size) :=
  (mask_append _ _).trans (by simp only [opcodeOf, Instr.mnemonic, rowMatch]; decide)
theorem EncodesInRow.rxpoll (size : Byte) : EncodesInRow.Statement (.rxpoll size) :=
  (mask_append _ _).trans (by simp only [opcodeOf, Instr.mnemonic, rowMatch]; decide)
theorem EncodesInRow.rdpayload : EncodesInRow.Statement .rdpayload :=
  (mask_append _ _).trans (by simp only [opcodeOf, Instr.mnemonic, rowMatch]; decide)
theorem EncodesInRow.pktrssi : EncodesInRow.Statement .pktrssi :=
  (mask_append _ _).trans (by simp only [opcodeOf, Instr.mnemonic, rowMatch]; decide)
theorem EncodesInRow.pktsnr : EncodesInRow.Statement .pktsnr :=
  (mask_append _ _).trans (by simp only [opcodeOf, Instr.mnemonic, rowMatch]; decide)
theorem EncodesInRow.onrecv (en : Bool) : EncodesInRow.Statement (.onrecv en) :=
  (mask_append _ _).trans (by simp only [opcodeOf, Instr.mnemonic, rowMatch]; decide)

end Sys2Proof.Laws
end

