-- ==== Sys2Proof/Laws/State.lean ====
section
/-! SUPPORT. What each update of the state leaves in each field: one lemma per field per update. -/

namespace Sys2Proof.Machine

section
variable (s : State)

@[simp] theorem emit_ustate (e : Event) : (s.emit e).ustate = s.ustate := rfl
@[simp] theorem emit_modeShadow (e : Event) : (s.emit e).modeShadow = s.modeShadow := rfl
@[simp] theorem emit_freqShadow (e : Event) : (s.emit e).freqShadow = s.freqShadow := rfl
@[simp] theorem emit_implicitShadow (e : Event) : (s.emit e).implicitShadow = s.implicitShadow := rfl
@[simp] theorem emit_cbArmed (e : Event) : (s.emit e).cbArmed = s.cbArmed := rfl
@[simp] theorem emit_irqPending (e : Event) : (s.emit e).irqPending = s.irqPending := rfl
@[simp] theorem emit_seq (e : Event) : (s.emit e).seq = s.seq := rfl
@[simp] theorem emit_callbackPort (e : Event) : (s.emit e).callbackPort = s.callbackPort := rfl
@[simp] theorem emit_log (e : Event) : (s.emit e).log = s.log ++ [e] := rfl
@[simp] theorem emit_inputs (e : Event) : (s.emit e).inputs = s.inputs := rfl
@[simp] theorem emit_cmdWords (e : Event) : (s.emit e).cmdWords = s.cmdWords := rfl
@[simp] theorem emit_cmdBytes (e : Event) : (s.emit e).cmdBytes = s.cmdBytes := rfl
@[simp] theorem emit_cfg (e : Event) : (s.emit e).cfg = s.cfg := rfl

@[simp] theorem apply_ustate_ustate (v : UState) : (Assign.apply (.ustate v) s).ustate = v := rfl
@[simp] theorem apply_ustate_modeShadow (v : UState) : (Assign.apply (.ustate v) s).modeShadow = s.modeShadow := rfl
@[simp] theorem apply_ustate_freqShadow (v : UState) : (Assign.apply (.ustate v) s).freqShadow = s.freqShadow := rfl
@[simp] theorem apply_ustate_implicitShadow (v : UState) : (Assign.apply (.ustate v) s).implicitShadow = s.implicitShadow := rfl
@[simp] theorem apply_ustate_cbArmed (v : UState) : (Assign.apply (.ustate v) s).cbArmed = s.cbArmed := rfl
@[simp] theorem apply_ustate_irqPending (v : UState) : (Assign.apply (.ustate v) s).irqPending = s.irqPending := rfl
@[simp] theorem apply_ustate_seq (v : UState) : (Assign.apply (.ustate v) s).seq = s.seq := rfl
@[simp] theorem apply_ustate_callbackPort (v : UState) : (Assign.apply (.ustate v) s).callbackPort = s.callbackPort := rfl
@[simp] theorem apply_ustate_log (v : UState) : (Assign.apply (.ustate v) s).log = s.log := rfl
@[simp] theorem apply_ustate_inputs (v : UState) : (Assign.apply (.ustate v) s).inputs = s.inputs := rfl
@[simp] theorem apply_ustate_cmdWords (v : UState) : (Assign.apply (.ustate v) s).cmdWords = s.cmdWords := rfl
@[simp] theorem apply_ustate_cmdBytes (v : UState) : (Assign.apply (.ustate v) s).cmdBytes = s.cmdBytes := rfl
@[simp] theorem apply_ustate_cfg (v : UState) : (Assign.apply (.ustate v) s).cfg = s.cfg := rfl

@[simp] theorem apply_modeShadow_ustate (w : Byte) : (Assign.apply (.modeShadow w) s).ustate = s.ustate := rfl
@[simp] theorem apply_modeShadow_modeShadow (w : Byte) : (Assign.apply (.modeShadow w) s).modeShadow = some w := rfl
@[simp] theorem apply_modeShadow_freqShadow (w : Byte) : (Assign.apply (.modeShadow w) s).freqShadow = s.freqShadow := rfl
@[simp] theorem apply_modeShadow_implicitShadow (w : Byte) : (Assign.apply (.modeShadow w) s).implicitShadow = s.implicitShadow := rfl
@[simp] theorem apply_modeShadow_cbArmed (w : Byte) : (Assign.apply (.modeShadow w) s).cbArmed = s.cbArmed := rfl
@[simp] theorem apply_modeShadow_irqPending (w : Byte) : (Assign.apply (.modeShadow w) s).irqPending = s.irqPending := rfl
@[simp] theorem apply_modeShadow_seq (w : Byte) : (Assign.apply (.modeShadow w) s).seq = s.seq := rfl
@[simp] theorem apply_modeShadow_callbackPort (w : Byte) : (Assign.apply (.modeShadow w) s).callbackPort = s.callbackPort := rfl
@[simp] theorem apply_modeShadow_log (w : Byte) : (Assign.apply (.modeShadow w) s).log = s.log := rfl
@[simp] theorem apply_modeShadow_inputs (w : Byte) : (Assign.apply (.modeShadow w) s).inputs = s.inputs := rfl
@[simp] theorem apply_modeShadow_cmdWords (w : Byte) : (Assign.apply (.modeShadow w) s).cmdWords = s.cmdWords := rfl
@[simp] theorem apply_modeShadow_cmdBytes (w : Byte) : (Assign.apply (.modeShadow w) s).cmdBytes = s.cmdBytes := rfl
@[simp] theorem apply_modeShadow_cfg (w : Byte) : (Assign.apply (.modeShadow w) s).cfg = s.cfg := rfl

@[simp] theorem apply_modeSelector_ustate (sel : BitVec 3) : (Assign.apply (.modeSelector sel) s).ustate = s.ustate := rfl
@[simp] theorem apply_modeSelector_modeShadow (sel : BitVec 3) : (Assign.apply (.modeSelector sel) s).modeShadow = s.modeShadow.map (fun m => withSelector s.cfg m sel) := rfl
@[simp] theorem apply_modeSelector_freqShadow (sel : BitVec 3) : (Assign.apply (.modeSelector sel) s).freqShadow = s.freqShadow := rfl
@[simp] theorem apply_modeSelector_implicitShadow (sel : BitVec 3) : (Assign.apply (.modeSelector sel) s).implicitShadow = s.implicitShadow := rfl
@[simp] theorem apply_modeSelector_cbArmed (sel : BitVec 3) : (Assign.apply (.modeSelector sel) s).cbArmed = s.cbArmed := rfl
@[simp] theorem apply_modeSelector_irqPending (sel : BitVec 3) : (Assign.apply (.modeSelector sel) s).irqPending = s.irqPending := rfl
@[simp] theorem apply_modeSelector_seq (sel : BitVec 3) : (Assign.apply (.modeSelector sel) s).seq = s.seq := rfl
@[simp] theorem apply_modeSelector_callbackPort (sel : BitVec 3) : (Assign.apply (.modeSelector sel) s).callbackPort = s.callbackPort := rfl
@[simp] theorem apply_modeSelector_log (sel : BitVec 3) : (Assign.apply (.modeSelector sel) s).log = s.log := rfl
@[simp] theorem apply_modeSelector_inputs (sel : BitVec 3) : (Assign.apply (.modeSelector sel) s).inputs = s.inputs := rfl
@[simp] theorem apply_modeSelector_cmdWords (sel : BitVec 3) : (Assign.apply (.modeSelector sel) s).cmdWords = s.cmdWords := rfl
@[simp] theorem apply_modeSelector_cmdBytes (sel : BitVec 3) : (Assign.apply (.modeSelector sel) s).cmdBytes = s.cmdBytes := rfl
@[simp] theorem apply_modeSelector_cfg (sel : BitVec 3) : (Assign.apply (.modeSelector sel) s).cfg = s.cfg := rfl

@[simp] theorem apply_freqShadow_ustate (f : BitVec 32) : (Assign.apply (.freqShadow f) s).ustate = s.ustate := rfl
@[simp] theorem apply_freqShadow_modeShadow (f : BitVec 32) : (Assign.apply (.freqShadow f) s).modeShadow = s.modeShadow := rfl
@[simp] theorem apply_freqShadow_freqShadow (f : BitVec 32) : (Assign.apply (.freqShadow f) s).freqShadow = some f := rfl
@[simp] theorem apply_freqShadow_implicitShadow (f : BitVec 32) : (Assign.apply (.freqShadow f) s).implicitShadow = s.implicitShadow := rfl
@[simp] theorem apply_freqShadow_cbArmed (f : BitVec 32) : (Assign.apply (.freqShadow f) s).cbArmed = s.cbArmed := rfl
@[simp] theorem apply_freqShadow_irqPending (f : BitVec 32) : (Assign.apply (.freqShadow f) s).irqPending = s.irqPending := rfl
@[simp] theorem apply_freqShadow_seq (f : BitVec 32) : (Assign.apply (.freqShadow f) s).seq = s.seq := rfl
@[simp] theorem apply_freqShadow_callbackPort (f : BitVec 32) : (Assign.apply (.freqShadow f) s).callbackPort = s.callbackPort := rfl
@[simp] theorem apply_freqShadow_log (f : BitVec 32) : (Assign.apply (.freqShadow f) s).log = s.log := rfl
@[simp] theorem apply_freqShadow_inputs (f : BitVec 32) : (Assign.apply (.freqShadow f) s).inputs = s.inputs := rfl
@[simp] theorem apply_freqShadow_cmdWords (f : BitVec 32) : (Assign.apply (.freqShadow f) s).cmdWords = s.cmdWords := rfl
@[simp] theorem apply_freqShadow_cmdBytes (f : BitVec 32) : (Assign.apply (.freqShadow f) s).cmdBytes = s.cmdBytes := rfl
@[simp] theorem apply_freqShadow_cfg (f : BitVec 32) : (Assign.apply (.freqShadow f) s).cfg = s.cfg := rfl

@[simp] theorem apply_implicitShadow_ustate (b : Bool) : (Assign.apply (.implicitShadow b) s).ustate = s.ustate := rfl
@[simp] theorem apply_implicitShadow_modeShadow (b : Bool) : (Assign.apply (.implicitShadow b) s).modeShadow = s.modeShadow := rfl
@[simp] theorem apply_implicitShadow_freqShadow (b : Bool) : (Assign.apply (.implicitShadow b) s).freqShadow = s.freqShadow := rfl
@[simp] theorem apply_implicitShadow_implicitShadow (b : Bool) : (Assign.apply (.implicitShadow b) s).implicitShadow = b := rfl
@[simp] theorem apply_implicitShadow_cbArmed (b : Bool) : (Assign.apply (.implicitShadow b) s).cbArmed = s.cbArmed := rfl
@[simp] theorem apply_implicitShadow_irqPending (b : Bool) : (Assign.apply (.implicitShadow b) s).irqPending = s.irqPending := rfl
@[simp] theorem apply_implicitShadow_seq (b : Bool) : (Assign.apply (.implicitShadow b) s).seq = s.seq := rfl
@[simp] theorem apply_implicitShadow_callbackPort (b : Bool) : (Assign.apply (.implicitShadow b) s).callbackPort = s.callbackPort := rfl
@[simp] theorem apply_implicitShadow_log (b : Bool) : (Assign.apply (.implicitShadow b) s).log = s.log := rfl
@[simp] theorem apply_implicitShadow_inputs (b : Bool) : (Assign.apply (.implicitShadow b) s).inputs = s.inputs := rfl
@[simp] theorem apply_implicitShadow_cmdWords (b : Bool) : (Assign.apply (.implicitShadow b) s).cmdWords = s.cmdWords := rfl
@[simp] theorem apply_implicitShadow_cmdBytes (b : Bool) : (Assign.apply (.implicitShadow b) s).cmdBytes = s.cmdBytes := rfl
@[simp] theorem apply_implicitShadow_cfg (b : Bool) : (Assign.apply (.implicitShadow b) s).cfg = s.cfg := rfl

@[simp] theorem apply_cbArmed_ustate (b : Bool) : (Assign.apply (.cbArmed b) s).ustate = s.ustate := rfl
@[simp] theorem apply_cbArmed_modeShadow (b : Bool) : (Assign.apply (.cbArmed b) s).modeShadow = s.modeShadow := rfl
@[simp] theorem apply_cbArmed_freqShadow (b : Bool) : (Assign.apply (.cbArmed b) s).freqShadow = s.freqShadow := rfl
@[simp] theorem apply_cbArmed_implicitShadow (b : Bool) : (Assign.apply (.cbArmed b) s).implicitShadow = s.implicitShadow := rfl
@[simp] theorem apply_cbArmed_cbArmed (b : Bool) : (Assign.apply (.cbArmed b) s).cbArmed = b := rfl
@[simp] theorem apply_cbArmed_irqPending (b : Bool) : (Assign.apply (.cbArmed b) s).irqPending = s.irqPending := rfl
@[simp] theorem apply_cbArmed_seq (b : Bool) : (Assign.apply (.cbArmed b) s).seq = s.seq := rfl
@[simp] theorem apply_cbArmed_callbackPort (b : Bool) : (Assign.apply (.cbArmed b) s).callbackPort = s.callbackPort := rfl
@[simp] theorem apply_cbArmed_log (b : Bool) : (Assign.apply (.cbArmed b) s).log = s.log := rfl
@[simp] theorem apply_cbArmed_inputs (b : Bool) : (Assign.apply (.cbArmed b) s).inputs = s.inputs := rfl
@[simp] theorem apply_cbArmed_cmdWords (b : Bool) : (Assign.apply (.cbArmed b) s).cmdWords = s.cmdWords := rfl
@[simp] theorem apply_cbArmed_cmdBytes (b : Bool) : (Assign.apply (.cbArmed b) s).cmdBytes = s.cmdBytes := rfl
@[simp] theorem apply_cbArmed_cfg (b : Bool) : (Assign.apply (.cbArmed b) s).cfg = s.cfg := rfl

@[simp] theorem apply_irqPending_ustate (b : Bool) : (Assign.apply (.irqPending b) s).ustate = s.ustate := rfl
@[simp] theorem apply_irqPending_modeShadow (b : Bool) : (Assign.apply (.irqPending b) s).modeShadow = s.modeShadow := rfl
@[simp] theorem apply_irqPending_freqShadow (b : Bool) : (Assign.apply (.irqPending b) s).freqShadow = s.freqShadow := rfl
@[simp] theorem apply_irqPending_implicitShadow (b : Bool) : (Assign.apply (.irqPending b) s).implicitShadow = s.implicitShadow := rfl
@[simp] theorem apply_irqPending_cbArmed (b : Bool) : (Assign.apply (.irqPending b) s).cbArmed = s.cbArmed := rfl
@[simp] theorem apply_irqPending_irqPending (b : Bool) : (Assign.apply (.irqPending b) s).irqPending = b := rfl
@[simp] theorem apply_irqPending_seq (b : Bool) : (Assign.apply (.irqPending b) s).seq = s.seq := rfl
@[simp] theorem apply_irqPending_callbackPort (b : Bool) : (Assign.apply (.irqPending b) s).callbackPort = s.callbackPort := rfl
@[simp] theorem apply_irqPending_log (b : Bool) : (Assign.apply (.irqPending b) s).log = s.log := rfl
@[simp] theorem apply_irqPending_inputs (b : Bool) : (Assign.apply (.irqPending b) s).inputs = s.inputs := rfl
@[simp] theorem apply_irqPending_cmdWords (b : Bool) : (Assign.apply (.irqPending b) s).cmdWords = s.cmdWords := rfl
@[simp] theorem apply_irqPending_cmdBytes (b : Bool) : (Assign.apply (.irqPending b) s).cmdBytes = s.cmdBytes := rfl
@[simp] theorem apply_irqPending_cfg (b : Bool) : (Assign.apply (.irqPending b) s).cfg = s.cfg := rfl

@[simp] theorem apply_arm_ustate : (Assign.apply .arm s).ustate = s.ustate := rfl
@[simp] theorem apply_arm_modeShadow : (Assign.apply .arm s).modeShadow = s.modeShadow := rfl
@[simp] theorem apply_arm_freqShadow : (Assign.apply .arm s).freqShadow = s.freqShadow := rfl
@[simp] theorem apply_arm_implicitShadow : (Assign.apply .arm s).implicitShadow = s.implicitShadow := rfl
@[simp] theorem apply_arm_cbArmed : (Assign.apply .arm s).cbArmed = s.cbArmed := rfl
@[simp] theorem apply_arm_irqPending : (Assign.apply .arm s).irqPending = s.irqPending := rfl
@[simp] theorem apply_arm_seq : (Assign.apply .arm s).seq = s.seq := rfl
@[simp] theorem apply_arm_callbackPort : (Assign.apply .arm s).callbackPort = s.callbackPort := rfl
@[simp] theorem apply_arm_log : (Assign.apply .arm s).log = s.log ++ [.arm] := rfl
@[simp] theorem apply_arm_inputs : (Assign.apply .arm s).inputs = s.inputs := rfl
@[simp] theorem apply_arm_cmdWords : (Assign.apply .arm s).cmdWords = s.cmdWords := rfl
@[simp] theorem apply_arm_cmdBytes : (Assign.apply .arm s).cmdBytes = s.cmdBytes := rfl
@[simp] theorem apply_arm_cfg : (Assign.apply .arm s).cfg = s.cfg := rfl

@[simp] theorem apply_disarm_ustate : (Assign.apply .disarm s).ustate = s.ustate := rfl
@[simp] theorem apply_disarm_modeShadow : (Assign.apply .disarm s).modeShadow = s.modeShadow := rfl
@[simp] theorem apply_disarm_freqShadow : (Assign.apply .disarm s).freqShadow = s.freqShadow := rfl
@[simp] theorem apply_disarm_implicitShadow : (Assign.apply .disarm s).implicitShadow = s.implicitShadow := rfl
@[simp] theorem apply_disarm_cbArmed : (Assign.apply .disarm s).cbArmed = s.cbArmed := rfl
@[simp] theorem apply_disarm_irqPending : (Assign.apply .disarm s).irqPending = s.irqPending := rfl
@[simp] theorem apply_disarm_seq : (Assign.apply .disarm s).seq = s.seq := rfl
@[simp] theorem apply_disarm_callbackPort : (Assign.apply .disarm s).callbackPort = s.callbackPort := rfl
@[simp] theorem apply_disarm_log : (Assign.apply .disarm s).log = s.log ++ [.disarm] := rfl
@[simp] theorem apply_disarm_inputs : (Assign.apply .disarm s).inputs = s.inputs := rfl
@[simp] theorem apply_disarm_cmdWords : (Assign.apply .disarm s).cmdWords = s.cmdWords := rfl
@[simp] theorem apply_disarm_cmdBytes : (Assign.apply .disarm s).cmdBytes = s.cmdBytes := rfl
@[simp] theorem apply_disarm_cfg : (Assign.apply .disarm s).cfg = s.cfg := rfl

@[simp] theorem respond_ustate (st : Status) (r : BitVec 32) (d : List Byte) : (s.respond st r d).ustate = s.ustate := rfl
@[simp] theorem respond_modeShadow (st : Status) (r : BitVec 32) (d : List Byte) : (s.respond st r d).modeShadow = s.modeShadow := rfl
@[simp] theorem respond_freqShadow (st : Status) (r : BitVec 32) (d : List Byte) : (s.respond st r d).freqShadow = s.freqShadow := rfl
@[simp] theorem respond_implicitShadow (st : Status) (r : BitVec 32) (d : List Byte) : (s.respond st r d).implicitShadow = s.implicitShadow := rfl
@[simp] theorem respond_cbArmed (st : Status) (r : BitVec 32) (d : List Byte) : (s.respond st r d).cbArmed = s.cbArmed := rfl
@[simp] theorem respond_irqPending (st : Status) (r : BitVec 32) (d : List Byte) : (s.respond st r d).irqPending = s.irqPending := rfl
@[simp] theorem respond_seq (st : Status) (r : BitVec 32) (d : List Byte) : (s.respond st r d).seq = .idle := rfl
@[simp] theorem respond_callbackPort (st : Status) (r : BitVec 32) (d : List Byte) : (s.respond st r d).callbackPort = s.callbackPort := rfl
@[simp] theorem respond_log (st : Status) (r : BitVec 32) (d : List Byte) : (s.respond st r d).log = s.log ++ [.response st r d] := rfl
@[simp] theorem respond_inputs (st : Status) (r : BitVec 32) (d : List Byte) : (s.respond st r d).inputs = s.inputs := rfl
@[simp] theorem respond_cmdWords (st : Status) (r : BitVec 32) (d : List Byte) : (s.respond st r d).cmdWords = s.cmdWords := rfl
@[simp] theorem respond_cmdBytes (st : Status) (r : BitVec 32) (d : List Byte) : (s.respond st r d).cmdBytes = s.cmdBytes := rfl
@[simp] theorem respond_cfg (st : Status) (r : BitVec 32) (d : List Byte) : (s.respond st r d).cfg = s.cfg := rfl

@[simp] theorem emitCallback_ustate (e : CallbackEvent) : (s.emitCallback e).ustate = s.ustate := rfl
@[simp] theorem emitCallback_modeShadow (e : CallbackEvent) : (s.emitCallback e).modeShadow = s.modeShadow := rfl
@[simp] theorem emitCallback_freqShadow (e : CallbackEvent) : (s.emitCallback e).freqShadow = s.freqShadow := rfl
@[simp] theorem emitCallback_implicitShadow (e : CallbackEvent) : (s.emitCallback e).implicitShadow = s.implicitShadow := rfl
@[simp] theorem emitCallback_cbArmed (e : CallbackEvent) : (s.emitCallback e).cbArmed = s.cbArmed := rfl
@[simp] theorem emitCallback_irqPending (e : CallbackEvent) : (s.emitCallback e).irqPending = s.irqPending := rfl
@[simp] theorem emitCallback_seq (e : CallbackEvent) : (s.emitCallback e).seq = .idle := rfl
@[simp] theorem emitCallback_callbackPort (e : CallbackEvent) : (s.emitCallback e).callbackPort = some e := rfl
@[simp] theorem emitCallback_log (e : CallbackEvent) : (s.emitCallback e).log = s.log ++ [.callback e] := rfl
@[simp] theorem emitCallback_inputs (e : CallbackEvent) : (s.emitCallback e).inputs = s.inputs := rfl
@[simp] theorem emitCallback_cmdWords (e : CallbackEvent) : (s.emitCallback e).cmdWords = s.cmdWords := rfl
@[simp] theorem emitCallback_cmdBytes (e : CallbackEvent) : (s.emitCallback e).cmdBytes = s.cmdBytes := rfl
@[simp] theorem emitCallback_cfg (e : CallbackEvent) : (s.emitCallback e).cfg = s.cfg := rfl

@[simp] theorem leaveHandler_ustate : (s.leaveHandler).ustate = s.ustate := rfl
@[simp] theorem leaveHandler_modeShadow : (s.leaveHandler).modeShadow = s.modeShadow := rfl
@[simp] theorem leaveHandler_freqShadow : (s.leaveHandler).freqShadow = s.freqShadow := rfl
@[simp] theorem leaveHandler_implicitShadow : (s.leaveHandler).implicitShadow = s.implicitShadow := rfl
@[simp] theorem leaveHandler_cbArmed : (s.leaveHandler).cbArmed = s.cbArmed := rfl
@[simp] theorem leaveHandler_irqPending : (s.leaveHandler).irqPending = s.irqPending := rfl
@[simp] theorem leaveHandler_seq : (s.leaveHandler).seq = .idle := rfl
@[simp] theorem leaveHandler_callbackPort : (s.leaveHandler).callbackPort = s.callbackPort := rfl
@[simp] theorem leaveHandler_log : (s.leaveHandler).log = s.log := rfl
@[simp] theorem leaveHandler_inputs : (s.leaveHandler).inputs = s.inputs := rfl
@[simp] theorem leaveHandler_cmdWords : (s.leaveHandler).cmdWords = s.cmdWords := rfl
@[simp] theorem leaveHandler_cmdBytes : (s.leaveHandler).cmdBytes = s.cmdBytes := rfl
@[simp] theorem leaveHandler_cfg : (s.leaveHandler).cfg = s.cfg := rfl

@[simp] theorem enterHandler_ustate : (s.enterHandler).ustate = s.ustate := rfl
@[simp] theorem enterHandler_modeShadow : (s.enterHandler).modeShadow = s.modeShadow := rfl
@[simp] theorem enterHandler_freqShadow : (s.enterHandler).freqShadow = s.freqShadow := rfl
@[simp] theorem enterHandler_implicitShadow : (s.enterHandler).implicitShadow = s.implicitShadow := rfl
@[simp] theorem enterHandler_cbArmed : (s.enterHandler).cbArmed = s.cbArmed := rfl
@[simp] theorem enterHandler_irqPending : (s.enterHandler).irqPending = false := rfl
@[simp] theorem enterHandler_seq : (s.enterHandler).seq = .irq [] := rfl
@[simp] theorem enterHandler_callbackPort : (s.enterHandler).callbackPort = s.callbackPort := rfl
@[simp] theorem enterHandler_log : (s.enterHandler).log = s.log := rfl
@[simp] theorem enterHandler_inputs : (s.enterHandler).inputs = s.inputs := rfl
@[simp] theorem enterHandler_cmdWords : (s.enterHandler).cmdWords = s.cmdWords := rfl
@[simp] theorem enterHandler_cmdBytes : (s.enterHandler).cmdBytes = s.cmdBytes := rfl
@[simp] theorem enterHandler_cfg : (s.enterHandler).cfg = s.cfg := rfl

@[simp] theorem present_ustate (w : CmdWord) (b : List Byte) : (s.present w b).ustate = s.ustate := rfl
@[simp] theorem present_modeShadow (w : CmdWord) (b : List Byte) : (s.present w b).modeShadow = s.modeShadow := rfl
@[simp] theorem present_freqShadow (w : CmdWord) (b : List Byte) : (s.present w b).freqShadow = s.freqShadow := rfl
@[simp] theorem present_implicitShadow (w : CmdWord) (b : List Byte) : (s.present w b).implicitShadow = s.implicitShadow := rfl
@[simp] theorem present_cbArmed (w : CmdWord) (b : List Byte) : (s.present w b).cbArmed = s.cbArmed := rfl
@[simp] theorem present_irqPending (w : CmdWord) (b : List Byte) : (s.present w b).irqPending = s.irqPending := rfl
@[simp] theorem present_seq (w : CmdWord) (b : List Byte) : (s.present w b).seq = s.seq := rfl
@[simp] theorem present_callbackPort (w : CmdWord) (b : List Byte) : (s.present w b).callbackPort = s.callbackPort := rfl
@[simp] theorem present_log (w : CmdWord) (b : List Byte) : (s.present w b).log = s.log := rfl
@[simp] theorem present_inputs (w : CmdWord) (b : List Byte) : (s.present w b).inputs = s.inputs := rfl
@[simp] theorem present_cmdWords (w : CmdWord) (b : List Byte) : (s.present w b).cmdWords = s.cmdWords ++ [w] := rfl
@[simp] theorem present_cmdBytes (w : CmdWord) (b : List Byte) : (s.present w b).cmdBytes = s.cmdBytes ++ b := rfl
@[simp] theorem present_cfg (w : CmdWord) (b : List Byte) : (s.present w b).cfg = s.cfg := rfl

@[simp] theorem takeCallback_ustate : (s.takeCallback).ustate = s.ustate := rfl
@[simp] theorem takeCallback_modeShadow : (s.takeCallback).modeShadow = s.modeShadow := rfl
@[simp] theorem takeCallback_freqShadow : (s.takeCallback).freqShadow = s.freqShadow := rfl
@[simp] theorem takeCallback_implicitShadow : (s.takeCallback).implicitShadow = s.implicitShadow := rfl
@[simp] theorem takeCallback_cbArmed : (s.takeCallback).cbArmed = s.cbArmed := rfl
@[simp] theorem takeCallback_irqPending : (s.takeCallback).irqPending = s.irqPending := rfl
@[simp] theorem takeCallback_seq : (s.takeCallback).seq = s.seq := rfl
@[simp] theorem takeCallback_callbackPort : (s.takeCallback).callbackPort = none := rfl
@[simp] theorem takeCallback_log : (s.takeCallback).log = s.log := rfl
@[simp] theorem takeCallback_inputs : (s.takeCallback).inputs = s.inputs := rfl
@[simp] theorem takeCallback_cmdWords : (s.takeCallback).cmdWords = s.cmdWords := rfl
@[simp] theorem takeCallback_cmdBytes : (s.takeCallback).cmdBytes = s.cmdBytes := rfl
@[simp] theorem takeCallback_cfg : (s.takeCallback).cfg = s.cfg := rfl

@[simp] theorem takeCommand_ustate (n : Nat) : (s.takeCommand n).ustate = s.ustate := rfl
@[simp] theorem takeCommand_modeShadow (n : Nat) : (s.takeCommand n).modeShadow = s.modeShadow := rfl
@[simp] theorem takeCommand_freqShadow (n : Nat) : (s.takeCommand n).freqShadow = s.freqShadow := rfl
@[simp] theorem takeCommand_implicitShadow (n : Nat) : (s.takeCommand n).implicitShadow = s.implicitShadow := rfl
@[simp] theorem takeCommand_cbArmed (n : Nat) : (s.takeCommand n).cbArmed = s.cbArmed := rfl
@[simp] theorem takeCommand_irqPending (n : Nat) : (s.takeCommand n).irqPending = s.irqPending := rfl
@[simp] theorem takeCommand_seq (n : Nat) : (s.takeCommand n).seq = s.seq := rfl
@[simp] theorem takeCommand_callbackPort (n : Nat) : (s.takeCommand n).callbackPort = s.callbackPort := rfl
@[simp] theorem takeCommand_log (n : Nat) : (s.takeCommand n).log = s.log := rfl
@[simp] theorem takeCommand_inputs (n : Nat) : (s.takeCommand n).inputs = s.inputs := rfl
@[simp] theorem takeCommand_cmdWords (n : Nat) : (s.takeCommand n).cmdWords = s.cmdWords.tail := rfl
@[simp] theorem takeCommand_cmdBytes (n : Nat) : (s.takeCommand n).cmdBytes = s.cmdBytes.drop n := rfl
@[simp] theorem takeCommand_cfg (n : Nat) : (s.takeCommand n).cfg = s.cfg := rfl

@[simp] theorem transferred_ustate (a d b : Byte) : (s.transferred a d b).ustate = s.ustate := rfl
@[simp] theorem transferred_modeShadow (a d b : Byte) : (s.transferred a d b).modeShadow = s.modeShadow := rfl
@[simp] theorem transferred_freqShadow (a d b : Byte) : (s.transferred a d b).freqShadow = s.freqShadow := rfl
@[simp] theorem transferred_implicitShadow (a d b : Byte) : (s.transferred a d b).implicitShadow = s.implicitShadow := rfl
@[simp] theorem transferred_cbArmed (a d b : Byte) : (s.transferred a d b).cbArmed = s.cbArmed := rfl
@[simp] theorem transferred_irqPending (a d b : Byte) : (s.transferred a d b).irqPending = s.irqPending := rfl
@[simp] theorem transferred_seq (a d b : Byte) : (s.transferred a d b).seq = s.seq.push b := rfl
@[simp] theorem transferred_callbackPort (a d b : Byte) : (s.transferred a d b).callbackPort = s.callbackPort := rfl
@[simp] theorem transferred_log (a d b : Byte) : (s.transferred a d b).log = s.log ++ [.xfer a d (.byte b)] := rfl
@[simp] theorem transferred_inputs (a d b : Byte) : (s.transferred a d b).inputs = s.inputs := rfl
@[simp] theorem transferred_cmdWords (a d b : Byte) : (s.transferred a d b).cmdWords = s.cmdWords := rfl
@[simp] theorem transferred_cmdBytes (a d b : Byte) : (s.transferred a d b).cmdBytes = s.cmdBytes := rfl
@[simp] theorem transferred_cfg (a d b : Byte) : (s.transferred a d b).cfg = s.cfg := rfl

@[simp] theorem applyReset_ustate : (s.applyReset).ustate = .uninit := rfl
@[simp] theorem applyReset_modeShadow : (s.applyReset).modeShadow = none := rfl
@[simp] theorem applyReset_freqShadow : (s.applyReset).freqShadow = none := rfl
@[simp] theorem applyReset_implicitShadow : (s.applyReset).implicitShadow = false := rfl
@[simp] theorem applyReset_cbArmed : (s.applyReset).cbArmed = false := rfl
@[simp] theorem applyReset_irqPending : (s.applyReset).irqPending = false := rfl
@[simp] theorem applyReset_seq : (s.applyReset).seq = .idle := rfl
@[simp] theorem applyReset_callbackPort : (s.applyReset).callbackPort = none := rfl
@[simp] theorem applyReset_log : (s.applyReset).log = s.log ++ [.disarm] := rfl
@[simp] theorem applyReset_inputs : (s.applyReset).inputs = s.inputs := rfl
@[simp] theorem applyReset_cmdWords : (s.applyReset).cmdWords = s.cmdWords := rfl
@[simp] theorem applyReset_cmdBytes : (s.applyReset).cmdBytes = s.cmdBytes := rfl
@[simp] theorem applyReset_cfg : (s.applyReset).cfg = s.cfg := rfl

@[simp] theorem latchEdge_ustate : s.latchEdge.ustate = s.ustate := by unfold State.latchEdge; split <;> rfl
@[simp] theorem latchEdge_modeShadow : s.latchEdge.modeShadow = s.modeShadow := by unfold State.latchEdge; split <;> rfl
@[simp] theorem latchEdge_freqShadow : s.latchEdge.freqShadow = s.freqShadow := by unfold State.latchEdge; split <;> rfl
@[simp] theorem latchEdge_implicitShadow : s.latchEdge.implicitShadow = s.implicitShadow := by unfold State.latchEdge; split <;> rfl
@[simp] theorem latchEdge_cbArmed : s.latchEdge.cbArmed = s.cbArmed := by unfold State.latchEdge; split <;> rfl
@[simp] theorem latchEdge_irqPending : s.latchEdge.irqPending = (s.irqPending || s.cbArmed) := by
  unfold State.latchEdge; split <;> simp_all
@[simp] theorem latchEdge_seq : s.latchEdge.seq = s.seq := by unfold State.latchEdge; split <;> rfl
@[simp] theorem latchEdge_callbackPort : s.latchEdge.callbackPort = s.callbackPort := by unfold State.latchEdge; split <;> rfl
@[simp] theorem latchEdge_log : s.latchEdge.log = s.log := by unfold State.latchEdge; split <;> rfl
@[simp] theorem latchEdge_inputs : s.latchEdge.inputs = s.inputs := by unfold State.latchEdge; split <;> rfl
@[simp] theorem latchEdge_cmdWords : s.latchEdge.cmdWords = s.cmdWords := by unfold State.latchEdge; split <;> rfl
@[simp] theorem latchEdge_cmdBytes : s.latchEdge.cmdBytes = s.cmdBytes := by unfold State.latchEdge; split <;> rfl
@[simp] theorem latchEdge_cfg : s.latchEdge.cfg = s.cfg := by unfold State.latchEdge; split <;> rfl

@[simp] theorem forOneTransfer_ustate : s.forOneTransfer.ustate = s.ustate := rfl
@[simp] theorem forOneTransfer_modeShadow : s.forOneTransfer.modeShadow = s.modeShadow := rfl
@[simp] theorem forOneTransfer_freqShadow : s.forOneTransfer.freqShadow = s.freqShadow := rfl
@[simp] theorem forOneTransfer_implicitShadow : s.forOneTransfer.implicitShadow = s.implicitShadow := rfl
@[simp] theorem forOneTransfer_cbArmed : s.forOneTransfer.cbArmed = s.cbArmed := rfl
@[simp] theorem forOneTransfer_irqPending : s.forOneTransfer.irqPending = s.irqPending := rfl
@[simp] theorem forOneTransfer_seq : s.forOneTransfer.seq = s.seq := rfl
@[simp] theorem forOneTransfer_callbackPort : s.forOneTransfer.callbackPort = s.callbackPort := rfl
@[simp] theorem forOneTransfer_log : s.forOneTransfer.log = s.log := rfl
@[simp] theorem forOneTransfer_inputs : s.forOneTransfer.inputs = (untilAnswer s.inputs).1 := rfl
@[simp] theorem forOneTransfer_cmdWords : s.forOneTransfer.cmdWords = s.cmdWords := rfl
@[simp] theorem forOneTransfer_cmdBytes : s.forOneTransfer.cmdBytes = s.cmdBytes := rfl
@[simp] theorem forOneTransfer_cfg : s.forOneTransfer.cfg = s.cfg := rfl

@[simp] theorem giveBack_ustate (later : List Input) : (s.giveBack later).ustate = s.ustate := rfl
@[simp] theorem giveBack_modeShadow (later : List Input) : (s.giveBack later).modeShadow = s.modeShadow := rfl
@[simp] theorem giveBack_freqShadow (later : List Input) : (s.giveBack later).freqShadow = s.freqShadow := rfl
@[simp] theorem giveBack_implicitShadow (later : List Input) : (s.giveBack later).implicitShadow = s.implicitShadow := rfl
@[simp] theorem giveBack_cbArmed (later : List Input) : (s.giveBack later).cbArmed = s.cbArmed := rfl
@[simp] theorem giveBack_irqPending (later : List Input) : (s.giveBack later).irqPending = s.irqPending := rfl
@[simp] theorem giveBack_seq (later : List Input) : (s.giveBack later).seq = s.seq := rfl
@[simp] theorem giveBack_callbackPort (later : List Input) : (s.giveBack later).callbackPort = s.callbackPort := rfl
@[simp] theorem giveBack_log (later : List Input) : (s.giveBack later).log = s.log := rfl
@[simp] theorem giveBack_inputs (later : List Input) : (s.giveBack later).inputs = s.inputs ++ later := rfl
@[simp] theorem giveBack_cmdWords (later : List Input) : (s.giveBack later).cmdWords = s.cmdWords := rfl
@[simp] theorem giveBack_cmdBytes (later : List Input) : (s.giveBack later).cmdBytes = s.cmdBytes := rfl
@[simp] theorem giveBack_cfg (later : List Input) : (s.giveBack later).cfg = s.cfg := rfl

end

end Sys2Proof.Machine
end

