-- ==== Sys2Proof/Laws/Script.lean ====
section
/-! SUPPORT. What the shared operations of Machine/Ops.lean and Machine/Sequencer.lean can do, each said once:
scripts, running them, running a command, fetching, stepping. -/

namespace Sys2Proof.Machine

open Sys2Proof

/-! ## Address bytes -/

/-- A legal record has its write flag at bit 7. -/
theorem writeFlag_of_legal {c : UnitCfg} (h : c.legal = true) : c.writeFlag = 0x80 := by
  simp only [UnitCfg.legal, Bool.and_eq_true, decide_eq_true_eq] at h
  tauto

theorem readAddress_eq {c : UnitCfg} (h : c.writeFlag = 0x80) (addr : Addr) :
    readAddress c addr = (0#1 ++ addr : BitVec 8) := by
  unfold readAddress; rw [h]; revert addr; decide

theorem writeAddress_eq {c : UnitCfg} (h : c.writeFlag = 0x80) (addr : Addr) :
    writeAddress c addr = (1#1 ++ addr : BitVec 8) := by
  unfold writeAddress; rw [h]; revert addr; decide

theorem addrOf_readAddress {c : UnitCfg} (h : c.writeFlag = 0x80) (addr : Addr) :
    addrOf (readAddress c addr) = addr := by rw [readAddress_eq h]; revert addr; decide

theorem addrOf_writeAddress {c : UnitCfg} (h : c.writeFlag = 0x80) (addr : Addr) :
    addrOf (writeAddress c addr) = addr := by rw [writeAddress_eq h]; revert addr; decide

theorem isWrite_readAddress {c : UnitCfg} (h : c.writeFlag = 0x80) (addr : Addr) :
    isWrite c (readAddress c addr) = false := by
  rw [readAddress_eq h]; unfold isWrite; rw [h]; revert addr; decide

theorem isWrite_writeAddress {c : UnitCfg} (h : c.writeFlag = 0x80) (addr : Addr) :
    isWrite c (writeAddress c addr) = true := by
  rw [writeAddress_eq h]; unfold isWrite; rw [h]; revert addr; decide

theorem busRead_eq (c : UnitCfg) (addr : Addr) (k : Byte → Script) :
    busRead c addr k = .xfer (readAddress c addr) c.readDummy k := rfl

theorem busWrite_eq (c : UnitCfg) (addr : Addr) (v : Byte) (p : Script) :
    busWrite c addr v p = .xfer (writeAddress c addr) v (fun _ => p) := rfl

theorem busPoll_eq (c : UnitCfg) (addr : Addr) (stop : Nat → Byte → Bool) (k : Nat → Byte → Script) :
    busPoll c addr stop k = .poll (readAddress c addr) c.readDummy stop 0 k := rfl

/-! ## Scripts -/

@[simp] theorem request_finish (f : Finish) : (Script.finish f).request = none := rfl
@[simp] theorem request_xfer (a d : Byte) (k : Byte → Script) : (Script.xfer a d k).request = some (a, d) := rfl
@[simp] theorem request_poll (a d : Byte) (stop : Nat → Byte → Bool) (n : Nat) (k : Nat → Byte → Script) :
    (Script.poll a d stop n k).request = some (a, d) := rfl

@[simp] theorem feed_xfer (a d b : Byte) (k : Byte → Script) : (Script.xfer a d k).feed b = k b := rfl
theorem feed_poll (a d b : Byte) (stop : Nat → Byte → Bool) (n : Nat) (k : Nat → Byte → Script) :
    (Script.poll a d stop n k).feed b = if stop (n + 1) b then k (n + 1) b else .poll a d stop (n + 1) k := rfl

@[simp] theorem settle_finish (f : Finish) (s : State) : (Script.finish f).settle s = (.finish f, s) := rfl
@[simp] theorem settle_assign (a : Assign) (p : Script) (s : State) :
    (Script.assign a p).settle s = p.settle (a.apply s) := rfl
@[simp] theorem settle_xfer (a d : Byte) (k : Byte → Script) (s : State) :
    (Script.xfer a d k).settle s = (.xfer a d k, s) := rfl
@[simp] theorem settle_poll (a d : Byte) (stop : Nat → Byte → Bool) (n : Nat) (k : Nat → Byte → Script) (s : State) :
    (Script.poll a d stop n k).settle s = (.poll a d stop n k, s) := rfl
@[simp] theorem settle_busRead (c : UnitCfg) (addr : Addr) (k : Byte → Script) (s : State) :
    (busRead c addr k).settle s = (busRead c addr k, s) := rfl
@[simp] theorem settle_busWrite (c : UnitCfg) (addr : Addr) (v : Byte) (p : Script) (s : State) :
    (busWrite c addr v p).settle s = (busWrite c addr v p, s) := rfl
@[simp] theorem settle_busPoll (c : UnitCfg) (addr : Addr) (stop : Nat → Byte → Bool) (k : Nat → Byte → Script)
    (s : State) : (busPoll c addr stop k).settle s = (busPoll c addr stop k, s) := rfl

/-- Settling carries out assignments only: the script left is the one `skip` gives. -/
theorem settle_fst (p : Script) (s : State) : (p.settle s).1 = p.skip := by
  induction p generalizing s with
  | assign a p ih => exact ih _
  | _ => rfl

theorem skip_skip (p : Script) : p.skip.skip = p.skip := by
  induction p with
  | assign a p ih => exact ih
  | _ => rfl

/-- A property every assignment keeps is kept by settling. -/
theorem settle_keeps {P : State → Prop} (h : ∀ a s, P s → P (Assign.apply a s)) (p : Script) (s : State) (hs : P s) :
    P (p.settle s).2 := by
  induction p generalizing s with
  | assign a p ih => exact ih _ (h a s hs)
  | _ => exact hs

@[simp] theorem residual_nil (p : Script) : p.residual [] = p.skip := rfl
@[simp] theorem residual_cons (p : Script) (b : Byte) (trail : List Byte) :
    p.residual (b :: trail) = (p.skip.feed b).residual trail := rfl

theorem residual_append (p : Script) (xs : List Byte) (b : Byte) :
    p.residual (xs ++ [b]) = ((p.residual xs).feed b).skip := by
  induction xs generalizing p with
  | nil => rfl
  | cons x xs ih => simp [ih]

/-! ## Running a script -/

@[simp] theorem runScript_finish (es : List Input) (f : Finish) (s : State) :
    runScript es (.finish f) s = f.complete { s with inputs := es } := by
  cases es <;> rfl

@[simp] theorem runScript_read_byte (c : UnitCfg) (addr : Addr) (k : Byte → Script) (b : Byte) (es : List Input)
    (s : State) :
    runScript (.bus (.byte b) :: es) (busRead c addr k) s =
      runScript es ((k b).settle (s.transferred (readAddress c addr) c.readDummy b)).1
        ((k b).settle (s.transferred (readAddress c addr) c.readDummy b)).2 := by
  rfl

@[simp] theorem runScript_write_byte (c : UnitCfg) (addr : Addr) (v : Byte) (p : Script) (b : Byte) (es : List Input) (s : State) :
    runScript (.bus (.byte b) :: es) (busWrite c addr v p) s =
      runScript es (p.settle (s.transferred (writeAddress c addr) v b)).1
        (p.settle (s.transferred (writeAddress c addr) v b)).2 := by
  rfl

/-- A script that waits (it has a request) when the inputs have run out. -/
theorem runScript_waits {p : Script} {s : State} {ad : Byte × Byte} (h : p.request = some ad) :
    runScript [] p s = { s with inputs := [] } := by
  cases p with
  | finish f => simp at h
  | assign a p => rfl
  | xfer a d k => rfl
  | poll a d stop n k => rfl

/-- Everything one input can do to a script that waits. -/
theorem runScript_cons {p : Script} {s : State} {a d : Byte} (h : p.request = some (a, d)) (e : Input)
    (es : List Input) :
    runScript (e :: es) p s =
      match e with
      | .bus (.byte b) => runScript es ((p.feed b).settle (s.transferred a d b)).1
          ((p.feed b).settle (s.transferred a d b)).2
      | .bus .error => State.busFail { s with inputs := es, log := s.log ++ [.xfer a d .error] }
      | .rst => State.applyReset { s with inputs := es, log := s.log ++ [.abandoned a d] }
      | .dio0Rise => runScript es p s.latchEdge
      | .command w bytes => runScript es p (s.present w bytes)
      | .takeCallback => runScript es p s.takeCallback := by
  cases e with
  | bus r => cases r <;> simp only [runScript, h]
  | _ => simp only [runScript, h]

/-- The induction over a run, once for all: `Inv` relates the settled script to the state while the sequence goes
on, `Post` holds of the state the run ends in. -/
theorem runScript_induct {Inv : Script → State → Prop} {Post : State → Prop}
    (hstop : ∀ p s es, Inv p s → p.request = none → Post (p.close { s with inputs := es }))
    (hwait : ∀ p s ad, Inv p s → p.request = some ad → Post { s with inputs := [] })
    (hbyte : ∀ p s a d b, Inv p s → p.request = some (a, d) →
      Inv ((p.feed b).settle (s.transferred a d b)).1 ((p.feed b).settle (s.transferred a d b)).2)
    (herror : ∀ p s a d es, Inv p s → p.request = some (a, d) →
      Post (State.busFail { s with inputs := es, log := s.log ++ [.xfer a d .error] }))
    (hrst : ∀ p s a d es, Inv p s → p.request = some (a, d) →
      Post (State.applyReset { s with inputs := es, log := s.log ++ [.abandoned a d] }))
    (hedge : ∀ p s, Inv p s → Inv p s.latchEdge)
    (hcommand : ∀ p s w bytes, Inv p s → Inv p (s.present w bytes))
    (htake : ∀ p s, Inv p s → Inv p s.takeCallback)
    (es : List Input) (p : Script) (s : State) (h : Inv p s) : Post (runScript es p s) := by
  induction es generalizing p s with
  | nil =>
    cases hp : p.request with
    | none => simpa only [runScript] using hstop p s [] h hp
    | some ad => rw [runScript_waits hp]; exact hwait p s ad h hp
  | cons e es ih =>
    cases hp : p.request with
    | none => simp only [runScript, hp]; exact hstop p s (e :: es) h hp
    | some ad =>
      obtain ⟨a, d⟩ := ad
      rw [runScript_cons hp]
      cases e with
      | bus r =>
        cases r with
        | byte b => exact ih _ _ (hbyte p s a d b h hp)
        | error => exact herror p s a d es h hp
      | dio0Rise => exact ih _ _ (hedge p s h)
      | rst => exact hrst p s a d es h hp
      | command w bytes => exact ih _ _ (hcommand p s w bytes h)
      | takeCallback => exact ih _ _ (htake p s h)

/-! ## Running a command -/

/-- All a command can do: refuse its operands, refuse its time, or run its sequence
(spec/30_encoding.md R79). -/
theorem runCommand_cases (i : Instr) (p : Script) (s : State) :
    (i.wf s.cfg = false ∧ runCommand i p s = .next (s.respond .errArg 0 [])) ∨
    (i.wf s.cfg = true ∧ lifecycleAllows i s = false ∧ runCommand i p s = .next (s.respond .errState 0 [])) ∨
    (i.wf s.cfg = true ∧ lifecycleAllows i s = true ∧
      runCommand i p s = .next (startScript p { s with seq := .fg i [] })) := by
  unfold runCommand
  cases i.wf s.cfg <;> cases lifecycleAllows i s <;> simp

/-- A command whose checks pass runs its sequence. -/
theorem runCommand_runs {i : Instr} {p : Script} {s : State} (hw : i.wf s.cfg = true) (hl : lifecycleAllows i s = true) :
    runCommand i p s = .next (startScript p { s with seq := .fg i [] }) := by
  simp [runCommand, hw, hl]

@[simp] theorem lifecycleAllows_of_ready {i : Instr} {s : State} (h : s.ustate = .ready) :
    lifecycleAllows i s = true := by simp [lifecycleAllows, h]

@[simp] theorem lifecycleAllows_init (s : State) : lifecycleAllows .init s = true := by simp [lifecycleAllows]

/-- Every arm of `exec` runs the sequence that `sequenceOf` gives. -/
theorem exec_eq (i : Instr) (s : State) : exec i s = runCommand i (sequenceOf i s) s := by
  cases i <;> rfl

/-- The sequence of a command that is not `RDPAYLOAD` or `PKTRSSI` depends on the parameters alone, that of
`RDPAYLOAD` on the header shadow, that of `PKTRSSI` on the frequency shadow. -/
theorem sequenceOf_congr {i : Instr} {s t : State} (hc : t.cfg = s.cfg)
    (hi : i = .rdpayload → t.implicitShadow = s.implicitShadow) (hf : i = .pktrssi → t.freqShadow = s.freqShadow) :
    sequenceOf i t = sequenceOf i s := by
  cases i <;> simp_all [sequenceOf]

/-! ## Fetching and stepping -/

/-- All the command port can give. -/
theorem fetchCommand_cases (s : State) :
    fetchCommand s = .nothing ∨
    (∃ w ws i, s.cmdWords = w :: ws ∧ decode s.cfg.op w s.cmdBytes = .ok i ∧
      fetchCommand s = .command i (s.takeCommand (dataCount s.cfg.op w))) ∨
    (∃ w ws, s.cmdWords = w :: ws ∧ decode s.cfg.op w s.cmdBytes = .illegalOp ∧
      fetchCommand s = .rejected .errOp (s.takeCommand 0)) ∨
    (∃ w ws, s.cmdWords = w :: ws ∧ decode s.cfg.op w s.cmdBytes = .reservedBits ∧
      fetchCommand s = .rejected .errArg (s.takeCommand (dataCount s.cfg.op w))) := by
  unfold fetchCommand
  cases h : s.cmdWords with
  | nil => simp
  | cons w ws => cases hd : decode s.cfg.op w s.cmdBytes <;> simp [hd]

/-- Up to the next answer and after it are the inputs, and nothing is lost. -/
@[simp] theorem untilAnswer_append (es : List Input) : (untilAnswer es).1 ++ (untilAnswer es).2 = es := by
  induction es with
  | nil => rfl
  | cons e es ih => cases e <;> simp_all [untilAnswer]

/-- An input that is no answer of the bus stands before the next answer. -/
theorem untilAnswer_cons {e : Input} (h : ∀ r, e ≠ .bus r) (es : List Input) :
    untilAnswer (e :: es) = (e :: (untilAnswer es).1, (untilAnswer es).2) := by
  cases e with
  | bus r => exact absurd rfl (h r)
  | _ => rfl

/-- Either the inputs hold no answer of the bus and come before it as a whole, or they split behind the first one. -/
theorem untilAnswer_cases (es : List Input) :
    (untilAnswer es = (es, []) ∧ ∀ r, .bus r ∉ es) ∨
    ∃ before r later, untilAnswer es = (before ++ [.bus r], later) ∧ es = before ++ .bus r :: later ∧
      ∀ q, .bus q ∉ before := by
  induction es with
  | nil => exact .inl ⟨rfl, by simp⟩
  | cons e es ih =>
    by_cases hb : ∃ r, e = .bus r
    · obtain ⟨r, rfl⟩ := hb; exact .inr ⟨[], r, es, rfl, rfl, by simp⟩
    · have hb : ∀ r, e ≠ .bus r := fun r hr => hb ⟨r, hr⟩
      rw [untilAnswer_cons hb]
      rcases ih with ⟨h, hn⟩ | ⟨before, r, later, h, he, hn⟩
      · exact .inl ⟨by rw [h], by simpa [fun r => (hb r).symm] using hn⟩
      · exact .inr ⟨e :: before, r, later, by rw [h]; rfl, by rw [he]; rfl, by simpa [fun r => (hb r).symm] using hn⟩

theorem complete_giveBack (f : Finish) (s : State) (later : List Input) :
    (f.complete s).giveBack later = f.complete (s.giveBack later) := by
  cases f <;> rfl

theorem close_giveBack (p : Script) (s : State) (later : List Input) :
    (p.close s).giveBack later = p.close (s.giveBack later) := by
  cases p <;> first | rfl | exact complete_giveBack _ _ _

theorem busFail_giveBack (s : State) (later : List Input) :
    s.busFail.giveBack later = (s.giveBack later).busFail := by
  unfold State.busFail
  show State.giveBack _ _ = match s.seq with | .idle => _ | .fg _ _ => _ | .irq _ => _
  cases s.seq <;> rfl

@[simp] theorem settle_seq (p : Script) (s : State) : (p.settle s).2.seq = s.seq :=
  settle_keeps (P := fun t => t.seq = s.seq) (fun a t h => by cases a <;> exact h) p s rfl

/-- Running a sequence for one transfer: it ends there as it ends with all inputs, or it waits behind one answer `b` and
what is left of it, on the later inputs, ends as it ends with all inputs. -/
theorem runScript_untilAnswer {p : Script} {s : State} {ad : Byte × Byte} (h : p.request = some ad) (es : List Input) :
    runScript es p s = (runScript (untilAnswer es).1 p s).giveBack (untilAnswer es).2 ∨
    ∃ b t, ((p.feed b).skip.request).isSome ∧ t.seq = s.seq.push b ∧
      runScript (untilAnswer es).1 p s = { t with inputs := [] } ∧
      runScript es p s = runScript (untilAnswer es).2 (p.feed b).skip t := by
  obtain ⟨a, d⟩ := ad
  induction es generalizing s with
  | nil => exact .inl (by simp [untilAnswer, runScript_waits h, State.giveBack])
  | cons e es ih =>
    cases e with
    | bus r =>
      cases r with
      | byte b =>
        simp only [untilAnswer, runScript_cons h]
        rw [settle_fst]
        cases hr : (p.feed b).skip.request with
        | none =>
          refine .inl ?_
          have hn : ∀ es t, runScript es (p.feed b).skip t = (p.feed b).skip.close { t with inputs := es } := by
            intro es t; cases es <;> simp only [runScript, hr]
          rw [hn, hn, close_giveBack]
          rfl
        | some ad =>
          refine .inr ⟨b, _, by simp [hr], ?_, runScript_waits hr, rfl⟩
          simp
      | error =>
        refine .inl ?_
        simp only [untilAnswer, runScript_cons h]
        rw [busFail_giveBack]
        rfl
    | rst =>
      refine .inl ?_
      simp only [untilAnswer, runScript_cons h]
      simp [State.applyReset, State.giveBack]
    | dio0Rise => simpa only [untilAnswer, runScript_cons h, latchEdge_seq] using ih (s := s.latchEdge)
    | command w bytes => simpa only [untilAnswer, runScript_cons h, present_seq] using ih (s := s.present w bytes)
    | takeCallback => simpa only [untilAnswer, runScript_cons h, takeCallback_seq] using ih (s := s.takeCallback)

/-- All that running a command for one transfer can do. -/
theorem atomicallyExec_eq (i : Instr) (s : State) :
    atomicallyExec (exec i) s =
      match exec i s.forOneTransfer with
      | .next t => .next (t.giveBack (untilAnswer s.inputs).2)
      | .fault e => .fault e
      | .refused r => .refused r := rfl

/-- All a step can do. -/
theorem step_cases (s : State) :
    (∃ cmd trail, s.seq = .fg cmd trail ∧ step s = .next (atomically (resumeCommand cmd trail) s)) ∨
    (∃ trail, s.seq = .irq trail ∧ step s = .next (atomically (resumeHandler trail) s)) ∨
    (s.seq = .idle ∧ rstAsserted s = true ∧ step s = .next (idleStep s)) ∨
    (s.seq = .idle ∧ rstAsserted s = false ∧ s.irqPending = true ∧ step s = .next (atomically runHandler s)) ∨
    (∃ i t, s.seq = .idle ∧ rstAsserted s = false ∧ s.irqPending = false ∧ fetchCommand s = .command i t ∧
      step s = atomicallyExec (exec i) t) ∨
    (∃ st t, s.seq = .idle ∧ rstAsserted s = false ∧ s.irqPending = false ∧ fetchCommand s = .rejected st t ∧
      step s = .next (t.respond st 0 [])) ∨
    (s.seq = .idle ∧ rstAsserted s = false ∧ s.irqPending = false ∧ fetchCommand s = .nothing ∧
      step s = .next (idleStep s)) := by
  unfold step
  cases hq : s.seq with
  | fg cmd trail => simp
  | irq trail => simp
  | idle =>
    cases hr : rstAsserted s with
    | true => simp
    | false =>
      cases hp : s.irqPending with
      | true => simp
      | false => cases hf : fetchCommand s <;> simp

/-- What `nextEvent` picks is one of the inputs, and no bus answer. -/
theorem nextEvent_mem {es rest : List Input} {e : Input} (h : nextEvent es = some (e, rest)) :
    e ∈ es ∧ ∀ r, e ≠ .bus r := by
  induction es generalizing rest with
  | nil => simp [nextEvent] at h
  | cons x xs ih =>
    cases x with
    | bus r =>
      simp only [nextEvent] at h
      cases hx : nextEvent xs with
      | none => simp [hx] at h
      | some p =>
        obtain ⟨e', rest'⟩ := p
        simp only [hx, Option.some.injEq, Prod.mk.injEq] at h
        obtain ⟨rfl, -⟩ := h
        exact ⟨List.mem_cons_of_mem _ (ih hx).1, (ih hx).2⟩
    | _ => simp only [nextEvent, Option.some.injEq, Prod.mk.injEq] at h; obtain ⟨rfl, -⟩ := h; simp

end Sys2Proof.Machine
end

