-- ==== Sys2Proof/Tests/Slice0.lean ====
section
/-! SUPPORT. Tests: words written out from the encoding tables, checks that refuse, one step per command with the
transfers and the response of spec/95_test_vectors.md, and for every statement with hypotheses a witness that meets
them. Expected values come from spec/. -/

namespace Sys2Proof.Tests

open Sys2Proof Sys2Proof.Machine

/-! ## Helpers -/

/-- A unit after `INIT` (spec/95_test_vectors.md section 3), with an empty log and these inputs to come. -/
def readyWith (inputs : List Input) : State :=
  { State.reset with ustate := .ready, modeShadow := some 0x89, log := [], inputs := inputs }

/-- A ready unit to which the host presents a word with data bytes. -/
def presented (w : CmdWord) (bytes : List Byte) : State :=
  { readyWith [] with cmdWords := [w], cmdBytes := bytes }

/-- A ready unit with the callback armed and an edge pending. -/
def edgePending (inputs : List Input) : State :=
  { readyWith inputs with cbArmed := true, irqPending := true }

/-- `AA:00` of the vectors, answered `r`. -/
def rd (a r : Byte) : Event := .xfer a 0x00 (.byte r)

/-- `AA:DD` of the vectors, a write (its answer is discarded; the tests answer 0). -/
def wr (a d : Byte) : Event := .xfer a d (.byte 0x00)

/-- The log of the next state. -/
def logOf (o : Host.Outcome State Fault Refusal) : List Event :=
  match o with
  | .next t => t.log
  | .fault _ => []
  | .refused _ => []

/-- The next state, none where there is none. -/
def nextOf (o : Host.Outcome State Fault Refusal) : Option State :=
  match o with
  | .next t => some t
  | .fault _ => none
  | .refused _ => none

/-! ## Decoding: one word per row of spec/opcode_table.json, from spec/30_encoding.md R71 to R73 -/

theorem test_decode_init : decode .default 0x0100000000 [] = .ok .init := by decide
theorem test_decode_rdreg : decode .default 0x020000007F [] = .ok (.rdreg 0x7F) := by decide
theorem test_decode_wrreg : decode .default 0x0300003439 [] = .ok (.wrreg 0x39 0x34) := by decide
theorem test_decode_setmode : decode .default 0x1000000005 [] = .ok (.setmode 5) := by decide
theorem test_decode_setlr : decode .default 0x1100000001 [] = .ok (.setlr true) := by decide
theorem test_decode_setfreq : decode .default 0x2033BCA100 [] = .ok (.setfreq 868000000) := by decide
theorem test_decode_settxpwr : decode .default 0x21000001FB [] = .ok (.settxpwr 0xFB true) := by decide
theorem test_decode_setbw : decode .default 0x220001E848 [] = .ok (.setbw 125000) := by decide
theorem test_decode_setsf : decode .default 0x230000000C [] = .ok (.setsf 12) := by decide
theorem test_decode_setldr : decode .default 0x2400000002 [] = .ok (.setldr 2) := by decide
theorem test_decode_setcr : decode .default 0x2500000008 [] = .ok (.setcr 8) := by decide
theorem test_decode_setpreamble : decode .default 0x2600001234 [] = .ok (.setpreamble 4660) := by decide
theorem test_decode_setsync : decode .default 0x2700000034 [] = .ok (.setsync 0x34) := by decide
theorem test_decode_setcrc : decode .default 0x2800000001 [] = .ok (.setcrc true) := by decide
theorem test_decode_setimpl : decode .default 0x2900000000 [] = .ok (.setimpl false) := by decide
theorem test_decode_beginpkt : decode .default 0x3000000000 [] = .ok .beginpkt := by decide
theorem test_decode_write : decode .default 0x3100000002 [0x48, 0x69, 0x21] = .ok (.write [0x48, 0x69]) := by decide
theorem test_decode_endpkt : decode .default 0x3200000000 [] = .ok .endpkt := by decide
theorem test_decode_receive : decode .default 0x4000000010 [] = .ok (.receive 16) := by decide
theorem test_decode_rxpoll : decode .default 0x4100000003 [] = .ok (.rxpoll 3) := by decide
theorem test_decode_rdpayload : decode .default 0x4200000000 [] = .ok .rdpayload := by decide
theorem test_decode_pktrssi : decode .default 0x4300000000 [] = .ok .pktrssi := by decide
theorem test_decode_pktsnr : decode .default 0x4400000000 [] = .ok .pktsnr := by decide
theorem test_decode_onrecv : decode .default 0x4500000001 [] = .ok (.onrecv true) := by decide

/-- The illegal opcodes next to each group (spec/30_encoding.md R77). -/
theorem test_decode_illegal :
    [0x00, 0x04, 0x0F, 0x12, 0x1F, 0x2A, 0x2F, 0x33, 0x3F, 0x46, 0xFF].map
      (fun op : Byte => decode .default (op ++ (0 : BitVec 32)) []) = List.replicate 11 Decoded.illegalOp := by decide

/-- Reserved bits (V1.9 to V1.32 of spec/95_test_vectors.md). -/
theorem test_decode_reserved :
    ([0x0100000001, 0x0200000080, 0x0300003480, 0x0300010000, 0x1000000008, 0x1100000002, 0x2100000200, 0x2300000017,
      0x2400000004, 0x2500000015, 0x2600010000, 0x2700000100, 0x2800000002, 0x2900000003, 0x3000000001, 0x3200000001,
      0x4000000100, 0x4100000100, 0x4200000001, 0x4300000001, 0x4400000001, 0x4500000002].map
      (fun w : CmdWord => decode .default w [])) = List.replicate 22 Decoded.reservedBits := by decide

/-- A `WRITE` whose bytes are not all there is not presented whole (spec/30_encoding.md R72). -/
theorem test_decode_write_missing : decode .default 0x3100000002 [0x48] = .dataMissing := by decide

/-- A table word of 40 bits; `WRITE` gets its bytes as zeros. -/
theorem test_tableWord :
    decodeTableWord 40 0x3100000002 = some (.write [0x00, 0x00]) ∧ decodeTableWord 40 0x4600000000 = none := by decide

/-- From reset the placed word is the one the next step runs: every command but `INIT` answers `ERR_STATE` (V9.3). -/
theorem test_withFetchWord :
    logOf (step (State.reset.withFetchWord 40 0x4400000000)) = [.disarm, .response .errState 0 []] := by decide

/-! ## Well-formedness: each check refuses an ill-formed term -/

theorem test_wf_refuses_setfreq :
    (Instr.setfreq 1024000000).wf .default = false ∧ (Instr.setfreq 1023999999).wf .default = true := by decide
theorem test_wf_refuses_address :
    (Instr.rdreg 0x40).wf { UnitCfg.default with addrW := 6 } = false ∧
    (Instr.wrreg 0x40 0).wf { UnitCfg.default with addrW := 6 } = false ∧
    (Instr.rdreg 0x3F).wf { UnitCfg.default with addrW := 6 } = true ∧ (Instr.rdreg 0x7F).wf .default = true := by decide
theorem test_wf_refuses_setsf_low : (Instr.setsf 5).wf .default = false ∧ (Instr.setsf 6).wf .default = true := by decide
theorem test_wf_refuses_setsf_high : (Instr.setsf 13).wf .default = false ∧ (Instr.setsf 12).wf .default = true := by decide
theorem test_wf_refuses_setldr : (Instr.setldr 3).wf .default = false ∧ (Instr.setldr 2).wf .default = true := by decide
theorem test_wf_refuses_setcr_low : (Instr.setcr 4).wf .default = false ∧ (Instr.setcr 5).wf .default = true := by decide
theorem test_wf_refuses_setcr_high : (Instr.setcr 9).wf .default = false ∧ (Instr.setcr 8).wf .default = true := by decide
theorem test_wf_refuses_long_write : (Instr.write (List.replicate 65536 0)).encodable = false := by
  simp only [Instr.encodable, List.length_replicate]; rfl
theorem test_selectors_refuse_same : ({ Selectors.default with cad := 0 } : Selectors).codes.Nodup = False := by decide
theorem test_cfg_refuses_same_opcode :
    ({ UnitCfg.default with op := { Opcodes.default with onrecv := 0x44 } } : UnitCfg).legal = false := by decide
theorem test_cfg_refuses_same_status :
    ({ UnitCfg.default with status := { StatusCodes.default with errTimeout := 5 } } : UnitCfg).legal = false := by decide
theorem test_cfg_refuses_widths :
    ({ UnitCfg.default with addrW := 8 } : UnitCfg).legal = false ∧ ({ UnitCfg.default with addrW := 6 } : UnitCfg).legal = false ∧
    ({ UnitCfg.default with dataW := 7 } : UnitCfg).legal = false ∧ ({ UnitCfg.default with frfW := 25 } : UnitCfg).legal = false ∧
    ({ UnitCfg.default with frfW := 23 } : UnitCfg).legal = true := by decide
theorem test_cfg_refuses_write_flag : ({ UnitCfg.default with writeFlag := 0x40 } : UnitCfg).legal = false := by decide
theorem test_cfg_refuses_bins : ({ UnitCfg.default with bwBins := [10400, 7800] } : UnitCfg).legal = false := by decide
theorem test_cfg_refuses_power : ({ UnitCfg.default with pwrBoostMax := 18 } : UnitCfg).legal = false := by decide
theorem test_field_refuses_gap : Field.isRun ⟨0x05, 0⟩ 8 3 = false ∧ Field.isRun ⟨0x07, 6⟩ 8 3 = false := by decide
theorem test_fields_refuse_overlap : Field.disjoint [⟨0x07, 0⟩, ⟨0x04, 2⟩] = false := by decide
theorem test_map_refuses_same_address : ({ ChipMap.default with version := 0x01 } : ChipMap).legal 7 8 = false := by decide
theorem test_map_refuses_width : ({ ChipMap.default with mode := ⟨0x03, 0⟩ } : ChipMap).legal 7 8 = false := by decide
theorem test_cfg_refuses_zero_limit : ({ UnitCfg.default with txPollLimit := some 0 } : UnitCfg).legal = false := by decide
theorem test_cfg_refuses_boost_bits : ({ UnitCfg.default with paBoostBits := 0x81 } : UnitCfg).legal = false := by decide
theorem test_cfg_default_legal : UnitCfg.default.legal = true := by decide

/-! ## Encoding and acceptance: witnesses -/

theorem witness_DecodeOfEncode :
    (Instr.write [0x48, 0x69]).encodable = true ∧ (Instr.setfreq 1024000000).encodable = true ∧
    Opcodes.default.codes.Nodup ∧ encode .default (.write [0x48, 0x69]) = (0x3100000002, [0x48, 0x69]) ∧
    encode { Opcodes.default with write := 0x7F } (.write [0x48, 0x69]) = (0x7F00000002, [0x48, 0x69]) := by decide

/-- The default opcodes, and `WRITE` at another one. -/
theorem witness_EncodeOfDecode :
    decode .default 0x3100000001 [0x48, 0x69] = .ok (.write [0x48]) ∧
    decode { Opcodes.default with write := 0x7F } 0x7F00000001 [0x48, 0x69] = .ok (.write [0x48]) ∧
    decode { Opcodes.default with write := 0x7F } 0x3100000001 [0x48, 0x69] = .illegalOp ∧
    ({ Opcodes.default with write := 0x7F } : Opcodes).codes.Nodup := by decide

theorem witness_StepRunsDecodedCommand :
    (presented 0x3100000001 [0x48, 0x69]).ready = true ∧ rstAsserted (presented 0x3100000001 [0x48, 0x69]) = false ∧
    (presented 0x3100000001 [0x48, 0x69]).cmdWords = [0x3100000001] ∧
    decode .default 0x3100000001 (presented 0x3100000001 [0x48, 0x69]).cmdBytes = .ok (.write [0x48]) ∧
    (untilAnswer (presented 0x3100000001 [0x48, 0x69]).inputs).2 = [] ∧
    (nextOf (step (presented 0x3100000001 [0x48, 0x69]))).map State.cmdBytes = some [0x69] ∧
    (nextOf (step { presented 0x1000000002 [] with inputs := busAnswers [0xE9, 0] })).map (fun t => (t.log, t.inputs)) =
      some ([rd 0x01 0xE9], busAnswers [0]) := by decide

theorem witness_IllegalOpcodeAnswersErrOp :
    (presented 0x46FFFFFFFF [0xAA]).ready = true ∧ rstAsserted (presented 0x46FFFFFFFF [0xAA]) = false ∧
    opField 0x46FFFFFFFF ∉ Opcodes.default.codes := by decide

theorem witness_ReservedBitAnswersErrArg :
    (presented 0x3100010002 [0xAA, 0xBB]).cfg.op.codes.Nodup ∧
    opField 0x0300000080 = Opcodes.default.of .wrreg ∧ reservedBit .wrreg 7 ∧ (argField 0x0300000080).getLsbD 7 = true ∧
    opField 0x3100010002 = Opcodes.default.of .write ∧ reservedBit .write 16 ∧ (argField 0x3100010002).getLsbD 16 = true ∧
    opField 0x0180000000 = Opcodes.default.of .init ∧ reservedBit .init 31 ∧ (argField 0x0180000000).getLsbD 31 = true ∧
    dataCount .default 0x3100010002 = 2 ∧ (presented 0x3100010002 [0xAA, 0xBB]).ready = true ∧
    rstAsserted (presented 0x3100010002 [0xAA, 0xBB]) = false ∧
    logOf (step (presented 0x3100010002 [0xAA, 0xBB])) = [.response .errArg 0 []] := by
  unfold reservedBit
  decide

theorem witness_OperandOutOfRangeAnswersErrArg :
    State.reset.seq = .idle ∧
    [Instr.setfreq 1024000000, .setsf 5, .setsf 13, .setldr 3, .setcr 4, .setcr 9].map (fun i => logOf (exec i State.reset))
      = List.replicate 6 [.disarm, .response .errArg 0 []] ∧
    logOf (exec (.rdreg 0x40) { State.reset with cfg := { UnitCfg.default with addrW := 6 } }) =
      [.disarm, .response .errArg 0 []] := by decide

theorem witness_NotReadyAnswersErrState :
    (State.reset.withFetchWord 40 0x3100000002).ready = true ∧
    rstAsserted (State.reset.withFetchWord 40 0x3100000002) = false ∧
    decode .default 0x3100000002 (State.reset.withFetchWord 40 0x3100000002).cmdBytes = .ok (.write [0, 0]) ∧
    (Instr.write [0, 0]).wf .default = true ∧ (State.reset.withFetchWord 40 0x3100000002).ustate ≠ .ready := by decide

theorem witness_CoherentKeptByStep :
    Coherent (edgePending []) ∧ (nextOf (step (edgePending []))).map State.seq = some (.irq []) := by
  refine ⟨⟨by decide, by decide, by decide, ?_, trivial⟩, by decide⟩
  intro f h
  cases h

/-! ## One step per command, as spec/95_test_vectors.md has it; each test meets the hypotheses of its statement -/

/-- V7.1. -/
theorem witness_InitCompletes :
    let s := { State.reset with log := [], inputs := busAnswers [0x12, 0x09, 0, 0, 0, 0, 0, 0x72, 0, 0x89, 0] }
    logOf (exec .init s) =
      [.disarm, rd 0x42 0x12, rd 0x01 0x09, wr 0x81 0x08, wr 0x81 0x88, wr 0x81 0x89, wr 0x8E 0x00, wr 0x8F 0x00,
       rd 0x1D 0x72, wr 0x9D 0x72, rd 0x01 0x89, wr 0x81 0x89, .response .ok 0 []] ∧
    (nextOf (exec .init s)).map (fun t => (t.ustate, t.modeShadow)) = some (.ready, some 0x89) := by decide

/-- V7.7: bit 7 counts too. -/
theorem witness_InitRefusesOtherSilicon :
    (0x92 : Byte) ≠ (readyWith []).cfg.versionOk ∧
    logOf (exec .init (readyWith (busAnswers [0x92]))) = [.disarm, rd 0x42 0x92, .response .errVersion 0x92 []] ∧
    (nextOf (exec .init (readyWith (busAnswers [0x92])))).map State.ustate = some .failed := by decide

/-- V2.1. -/
theorem witness_RdregReadsOneRegister :
    (readyWith (busAnswers [0x12])).ustate = .ready ∧ (0x7F : Addr).toNat < 2 ^ (readyWith []).cfg.addrW ∧
    logOf (exec (.rdreg 0x42) (readyWith (busAnswers [0x12]))) = [rd 0x42 0x12, .response .ok 0x12 []] := by decide

/-- V2.2. -/
theorem witness_WrregWritesOneRegister :
    (readyWith (busAnswers [0])).ustate = .ready ∧ (0x7F : Addr).toNat < 2 ^ (readyWith []).cfg.addrW ∧
    logOf (exec (.wrreg 0x39 0x34) (readyWith (busAnswers [0]))) = [wr 0xB9 0x34, .response .ok 0 []] := by decide

/-- V3.3. -/
theorem witness_SetmodeReplacesSelector :
    (readyWith (busAnswers [0xE9, 0])).ustate = .ready ∧
    logOf (exec (.setmode 2) (readyWith (busAnswers [0xE9, 0]))) = [rd 0x01 0xE9, wr 0x81 0xEA, .response .ok 0 []] ∧
    (nextOf (exec (.setmode 2) (readyWith (busAnswers [0xE9, 0])))).map State.modeShadow = some (some 0xEA) := by decide

/-- V3.12, V3.15 and V3.25: both directions, and the third transfer failing. -/
theorem witness_SetlrGoesThroughSleep :
    logOf (exec (.setlr true) (readyWith (busAnswers [0x09, 0, 0, 0]))) =
      [rd 0x01 0x09, wr 0x81 0x08, wr 0x81 0x88, wr 0x81 0x89, .response .ok 0 []] ∧
    logOf (exec (.setlr false) (readyWith (busAnswers [0x8D, 0, 0, 0]))) =
      [rd 0x01 0x8D, wr 0x81 0x88, wr 0x81 0x08, wr 0x81 0x0D, .response .ok 0 []] ∧
    (nextOf (exec (.setlr false) (readyWith (busAnswers [0x89, 0] ++ [.bus .error])))).map
      (fun t => (t.log.getLast?, t.modeShadow)) = some (some (.response .errBus 0 []), some 0x88) := by decide

/-- V4.17 and V4.18: the two sides of the threshold. -/
theorem witness_SetfreqWritesCodeAndBand :
    UnitCfg.default.freqFits 599999999 = true ∧ UnitCfg.default.freqFits 1023999999 = true ∧
    logOf (exec (.setfreq 599999999) (readyWith (busAnswers [0, 0, 0, 0x81, 0]))) =
      [wr 0x86 0x95, wr 0x87 0xFF, wr 0x88 0xFF, rd 0x01 0x81, wr 0x81 0x89, .response .ok 0 []] ∧
    logOf (exec (.setfreq 600000000) (readyWith (busAnswers [0, 0, 0, 0x81, 0]))) =
      [wr 0x86 0x96, wr 0x87 0x00, wr 0x88 0x00, rd 0x01 0x81, wr 0x81 0x81, .response .ok 0 []] := by decide

/-- V4.34 and V4.37. -/
theorem witness_SettxpwrWritesPowerByte :
    logOf (exec (.settxpwr 0xFB true) (readyWith (busAnswers [0]))) = [wr 0x89 0x80, .response .ok 0 []] ∧
    logOf (exec (.settxpwr 14 false) (readyWith (busAnswers [0]))) = [wr 0x89 0x7E, .response .ok 0 []] := by decide

/-- V4.67 and V4.73. -/
theorem witness_SetbwWritesBin :
    logOf (exec (.setbw 125001) (readyWith (busAnswers [0x03, 0]))) = [rd 0x1D 0x03, wr 0x9D 0x83, .response .ok 0 []] ∧
    logOf (exec (.setbw 0xFFFFFFFF) (readyWith (busAnswers [0x03, 0]))) =
      [rd 0x1D 0x03, wr 0x9D 0x93, .response .ok 0 []] := by decide

/-- V4.75 and V4.81. -/
theorem witness_SetsfWritesFactor :
    logOf (exec (.setsf 6) (readyWith (busAnswers [0x07, 0]))) = [rd 0x1E 0x07, wr 0x9E 0x67, .response .ok 0 []] ∧
    logOf (exec (.setsf 12) (readyWith (busAnswers [0x07, 0]))) = [rd 0x1E 0x07, wr 0x9E 0xC7, .response .ok 0 []] := by
  decide

/-- V4.86, V4.91 and V4.92: on; automatic on either side of 10. -/
theorem witness_SetldrWritesFlag :
    logOf (exec (.setldr 1) (readyWith (busAnswers [0x04, 0]))) = [rd 0x26 0x04, wr 0xA6 0x0C, .response .ok 0 []] ∧
    logOf (exec (.setldr 2) (readyWith (busAnswers [0x94, 0x0C, 0]))) =
      [rd 0x1E 0x94, rd 0x26 0x0C, wr 0xA6 0x04, .response .ok 0 []] ∧
    logOf (exec (.setldr 2) (readyWith (busAnswers [0xA4, 0x04, 0]))) =
      [rd 0x1E 0xA4, rd 0x26 0x04, wr 0xA6 0x0C, .response .ok 0 []] := by decide

/-- V4.97 and V4.100. -/
theorem witness_SetcrWritesRate :
    logOf (exec (.setcr 5) (readyWith (busAnswers [0x7F, 0]))) = [rd 0x1D 0x7F, wr 0x9D 0x73, .response .ok 0 []] ∧
    logOf (exec (.setcr 8) (readyWith (busAnswers [0x7F, 0]))) = [rd 0x1D 0x7F, wr 0x9D 0x79, .response .ok 0 []] := by
  decide

/-- V4.104. -/
theorem witness_SetpreambleWritesLength :
    logOf (exec (.setpreamble 0x1234) (readyWith (busAnswers [0, 0]))) =
      [wr 0xA0 0x12, wr 0xA1 0x34, .response .ok 0 []] := by decide

/-- V4.107. -/
theorem witness_SetsyncWritesWord :
    logOf (exec (.setsync 0x12) (readyWith (busAnswers [0]))) = [wr 0xB9 0x12, .response .ok 0 []] := by decide

/-- V4.110 and V4.111. -/
theorem witness_SetcrcWritesFlag :
    logOf (exec (.setcrc false) (readyWith (busAnswers [0xFF, 0]))) = [rd 0x1E 0xFF, wr 0x9E 0xFB, .response .ok 0 []] ∧
    logOf (exec (.setcrc true) (readyWith (busAnswers [0x00, 0]))) = [rd 0x1E 0x00, wr 0x9E 0x04, .response .ok 0 []] := by
  decide

/-- V4.115 and V4.118: the shadow follows the write, and no failed write. -/
theorem witness_SetimplWritesHeaderMode :
    (nextOf (exec (.setimpl true) (readyWith (busAnswers [0x00, 0])))).map (fun t => (t.log, t.implicitShadow)) =
      some ([rd 0x1D 0x00, wr 0x9D 0x01, .response .ok 0 []], true) ∧
    (nextOf (exec (.setimpl true) (readyWith (busAnswers [0x72] ++ [.bus .error])))).map
      (fun t => (t.log, t.implicitShadow)) =
      some ([rd 0x1D 0x72, .xfer 0x9D 0x73 .error, .response .errBus 0 []], false) := by decide

/-- V5.1. -/
theorem witness_BeginpktStagesEmptyPacket :
    logOf (exec .beginpkt (readyWith (busAnswers [0x8D, 0, 0, 0]))) =
      [rd 0x01 0x8D, wr 0x81 0x89, wr 0x8D 0x00, wr 0xA2 0x00, .response .ok 0 []] := by decide

/-- V5.7, V5.8 and V5.2: truncated, full, and nothing to write. -/
theorem witness_WriteAppendsAcceptedBytes :
    logOf (exec (.write [0xA0, 0xA1]) (readyWith (busAnswers [0xFE, 0, 0]))) =
      [rd 0x22 0xFE, wr 0x80 0xA0, wr 0xA2 0xFF, .response .ok 1 []] ∧
    logOf (exec (.write [0xA0, 0xA1, 0xA2]) (readyWith (busAnswers [0xFF, 0]))) =
      [rd 0x22 0xFF, wr 0xA2 0xFF, .response .ok 0 []] ∧
    logOf (exec (.write []) (readyWith (busAnswers [0x00, 0]))) = [rd 0x22 0x00, wr 0xA2 0x00, .response .ok 0 []] := by
  decide

/-- A ready unit with a poll limit. -/
def limited (n : Nat) (inputs : List Input) : State :=
  { readyWith inputs with cfg := { UnitCfg.default with txPollLimit := some n } }

/-- V5.14: TX-done at the third read with the limit 3, one read more than the two that saw nothing. -/
theorem witness_EndpktCompletesOnTxDone :
    (∀ n, (limited 3 []).cfg.txPollLimit = some n → [(0 : Byte), 0].length < n) ∧
    (nextOf (exec .endpkt (limited 3 (busAnswers [0x89, 0, 0, 0, 0x08, 0])))).map (fun t => (t.log, t.modeShadow)) =
      some ([rd 0x01 0x89, wr 0x81 0x8B, rd 0x12 0, rd 0x12 0, rd 0x12 0x08, wr 0x92 0x08, .response .ok 0 []],
        some 0x89) := by
  refine ⟨fun n h => ?_, by decide⟩
  cases h; decide

/-- V5.18 (the limit reached), and one read short of it the unit waits, busy. -/
theorem witness_EndpktWithoutTxDone :
    (nextOf (exec .endpkt (limited 3 (busAnswers [0x89, 0, 0, 0, 0])))).map (fun t => (t.log, t.modeShadow)) =
      some ([rd 0x01 0x89, wr 0x81 0x8B, rd 0x12 0, rd 0x12 0, rd 0x12 0, .response .errTimeout 0 []], some 0x8B) ∧
    (nextOf (exec .endpkt (limited 3 (busAnswers [0x89, 0, 0, 0])))).map (fun t => (t.seq, t.ready)) =
      some (.fg .endpkt [0x89, 0, 0, 0], false) := by decide

theorem witness_EndpktEndsWithinLimit :
    (limited 1 []).cfg.legal = true ∧ (limited 1 []).cfg.txPollLimit = some 1 ∧
    1 + 3 ≤ [(0x89 : Byte), 0, 0x08, 0].length ∧
    (nextOf (exec .endpkt (limited 1 (busAnswers [0x89, 0, 0x08, 0])))).map State.seq = some .idle := by decide

theorem witness_OtherCommandsEnd :
    Instr.rdpayload ≠ .endpkt ∧ (readyWith []).cfg.maxPkt ≤ 255 ∧ 258 ≤ (List.replicate 258 (0x01 : Byte)).length ∧
    (readyWith (busAnswers (List.replicate 258 0x01))).inputs = busAnswers (List.replicate 258 0x01) :=
  ⟨by decide, by decide, by rw [List.length_replicate], rfl⟩

/-- V6.1 and V6.3. -/
theorem witness_ReceiveEntersContinuous :
    logOf (exec (.receive 0) (readyWith (busAnswers [0x72, 0, 0x89, 0]))) =
      [rd 0x1D 0x72, wr 0x9D 0x72, rd 0x01 0x89, wr 0x81 0x8D, .response .ok 0 []] ∧
    logOf (exec (.receive 16) (readyWith (busAnswers [0x72, 0, 0, 0x89, 0]))) =
      [rd 0x1D 0x72, wr 0x9D 0x73, wr 0xA2 0x10, rd 0x01 0x89, wr 0x81 0x8D, .response .ok 0 []] := by decide

/-- V6.7. -/
theorem witness_RxpollReportsLonePacket :
    (readyWith []).cfg.chip.rxDone.mask = 0x40 ∧
    logOf (exec (.rxpoll 0) (readyWith (busAnswers [0x72, 0, 0x40, 0]))) =
      [rd 0x1D 0x72, wr 0x9D 0x72, rd 0x12 0x40, wr 0x92 0x40, .response .ok 1 []] := by decide

/-- V6.9 (RX-SINGLE already) and V6.20 (re-armed, with a size). -/
theorem witness_RxpollRearmsSingle :
    fieldGet (readyWith []).cfg.chip.mode 0x8E = (readyWith []).cfg.sel.rxSingle.setWidth 8 ∧
    fieldGet (readyWith []).cfg.chip.mode 0x89 ≠ (readyWith []).cfg.sel.rxSingle.setWidth 8 ∧
    logOf (exec (.rxpoll 0) (readyWith (busAnswers [0x72, 0, 0x60, 0, 0x8E]))) =
      [rd 0x1D 0x72, wr 0x9D 0x72, rd 0x12 0x60, wr 0x92 0x60, rd 0x01 0x8E, .response .ok 0 []] ∧
    logOf (exec (.rxpoll 3) (readyWith (busAnswers [0x72, 0, 0, 0x00, 0, 0x89, 0x89, 0]))) =
      [rd 0x1D 0x72, wr 0x9D 0x73, wr 0xA2 0x03, rd 0x12 0x00, wr 0x92 0x00, rd 0x01 0x89, rd 0x01 0x89, wr 0x81 0x8E,
       .response .ok 0 []] := by decide

/-- V6.23 and V6.24: two bytes, and none. -/
theorem witness_RdpayloadReturnsPayload :
    logOf (exec .rdpayload (readyWith (busAnswers [0x20, 0, 0x02, 0xDE, 0xAD]))) =
      [rd 0x10 0x20, wr 0x8D 0x20, rd 0x13 0x02, rd 0x00 0xDE, rd 0x00 0xAD, .response .ok 2 [0xDE, 0xAD]] ∧
    logOf (exec .rdpayload (readyWith (busAnswers [0x05, 0, 0x00]))) =
      [rd 0x10 0x05, wr 0x8D 0x05, rd 0x13 0x00, .response .ok 0 []] := by decide

/-- V6.29, V6.30 and V1.33: the two sides of 868 MHz, and no frequency shadow. -/
theorem witness_PktrssiSubtractsOffset :
    (readyWith []).cfg.rssiSplitHz = 868000000 ∧ (readyWith []).cfg.rssiOffsetLow ≤ 2 ^ 31 ∧
    (readyWith []).cfg.rssiOffsetHigh ≤ 2 ^ 31 ∧
    logOf (exec .pktrssi { readyWith (busAnswers [0x64]) with freqShadow := some 867999999 }) =
      [rd 0x1A 0x64, .response .ok 0xFFFFFFC0 []] ∧
    logOf (exec .pktrssi { readyWith (busAnswers [0xFF]) with freqShadow := some 868000000 }) =
      [rd 0x1A 0xFF, .response .ok 0x00000062 []] ∧
    logOf (exec .pktrssi (readyWith [])) = [.response .errState 0 []] := by decide

/-- V6.39 and V6.40. -/
theorem witness_PktsnrSignExtends :
    logOf (exec .pktsnr (readyWith (busAnswers [0x7F]))) = [rd 0x19 0x7F, .response .ok 0x7F []] ∧
    logOf (exec .pktsnr (readyWith (busAnswers [0x80]))) = [rd 0x19 0x80, .response .ok 0xFFFFFF80 []] := by decide

/-- V6.44 and V6.48. -/
theorem witness_OnrecvArmsAndDisarms :
    (nextOf (exec (.onrecv true) (readyWith []))).map (fun t => (t.log, t.cbArmed)) =
      some ([.arm, .response .ok 0 []], true) ∧
    (nextOf (exec (.onrecv false) (edgePending []))).map (fun t => (t.log, t.cbArmed, t.irqPending)) =
      some ([.disarm, .response .ok 0 []], false, false) := by decide

/-! ## Errors, resets, edges, the handler: witnesses -/

/-- A unit inside `PKTSNR`, and one inside the handler. -/
def insideCommand (inputs : List Input) : State := { readyWith inputs with seq := .fg .pktsnr [] }
def insideHandler (inputs : List Input) : State := { readyWith inputs with cbArmed := true, seq := .irq [] }

/-- V8.13 among them. -/
theorem witness_BusErrorEndsSequence :
    busRequest (insideCommand [.bus .error]) = some (0x19, 0x00) ∧
    logOf (step (insideCommand [.bus .error])) = [.xfer 0x19 0 .error, .response .errBus 0 []] ∧
    busRequest (insideHandler [.bus .error]) = some (0x12, 0x00) ∧
    logOf (step (insideHandler [.bus .error])) = [.xfer 0x12 0 .error, .callback (.irqAbort .errBus)] := by decide

/-- V9.1 and V9.2. -/
theorem witness_RstAbandonsSequence :
    busRequest (insideCommand [.rst]) = some (0x19, 0x00) ∧ (edgePending [.rst]).seq = .idle ∧
    nextOf (step (edgePending [.rst])) = some State.reset ∧
    logOf (step (insideCommand [.rst])) = [.abandoned 0x19 0x00, .disarm] := by decide

/-- V6.45, V6.46 and V6.49. -/
theorem witness_EdgeIsLatched :
    (readyWith [.dio0Rise]).ready = true ∧ (busRequest (insideCommand [.dio0Rise])).isSome = true ∧
    (busRequest (insideHandler [.dio0Rise])).isSome = true ∧
    (nextOf (step (insideHandler [.dio0Rise]))).map State.irqPending = some true ∧
    (nextOf (step (readyWith [.dio0Rise]))).map State.irqPending = some false := by decide

/-- V8.8. -/
theorem witness_HandlerDropsCrcError :
    (edgePending []).seq = .idle ∧ (edgePending []).irqPending = true ∧
    (0x60 : Byte) &&& (edgePending []).cfg.chip.crcError.mask ≠ 0 ∧
    (runSteps 2 (edgePending (busAnswers [0x60, 0]))).map State.log = some [rd 0x12 0x60, wr 0x92 0x60] := by decide

/-- V8.6 and V8.11: all other flags set; an empty payload is still an event. -/
theorem witness_HandlerDeliversPayload :
    (0xDF : Byte) &&& (edgePending []).cfg.chip.crcError.mask = 0 ∧
    (runSteps 6 (edgePending (busAnswers [0xDF, 0, 0x10, 0, 1, 0xEE]))).map State.log = some
      [rd 0x12 0xDF, wr 0x92 0xDF, rd 0x10 0x10, wr 0x8D 0x10, rd 0x13 1, rd 0x00 0xEE, .callback (.payload [0xEE])] ∧
    (runSteps 5 (edgePending (busAnswers [0x40, 0, 0x10, 0, 0]))).map State.log = some
      [rd 0x12 0x40, wr 0x92 0x40, rd 0x10 0x10, wr 0x8D 0x10, rd 0x13 0, .callback (.payload [])] := by decide

/-- P5.7 to P5.9: with an edge pending and a word presented the handler starts and the word stays; then the word runs. -/
theorem witness_HandlerServedBeforeCommands :
    (edgePending []).seq = .idle ∧
    (nextOf (step { edgePending [] with cmdWords := [0x2700000012] })).map (fun t => (t.seq, t.cmdWords)) =
      some (.irq [], [0x2700000012]) ∧
    (nextOf (step (presented 0x2700000012 []))).map State.seq = some (.fg (.setsync 0x12) []) := by decide

/-! ## The whole machine: witnesses -/

theorem witness_TransfersAreFramedAndKept :
    (insideCommand []).cfg.legal = true ∧
    logOf (step (insideCommand (busAnswers [0x28]))) = [rd 0x19 0x28, .response .ok 40 []] := by decide

theorem witness_OneResponseAfterLastTransfer :
    Input.rst ∉ (readyWith [.dio0Rise]).inputs ∧
    (nextOf (exec .pktsnr (readyWith [.dio0Rise]))).map State.seq = some (.fg .pktsnr []) ∧
    Input.rst ∉ (readyWith (busAnswers [0x28])).inputs ∧
    (nextOf (exec .pktsnr (readyWith (busAnswers [0x28])))).map State.seq = some .idle := by decide

/-- The gate speaks of something: it refuses a long-range change outside SLEEP. -/
theorem witness_LongRangeGateHolds :
    (readyWith []).cfg.legal = true ∧ (edgePending []).irqPending = true ∧
    longRangeGate .default none [rd 0x01 0x09, wr 0x81 0x89] = false ∧
    longRangeGate .default none (logOf (exec (.setlr true) (readyWith (busAnswers [0x09, 0, 0, 0])))) = true := by decide

theorem witness_SuspendedCommandResumes :
    (nextOf (exec (.setlr true) (readyWith (busAnswers [0x09, 0])))).map State.seq =
      some (.fg (.setlr true) [0x09, 0]) ∧
    (runHandler (edgePending (busAnswers [0x40, 0, 0x10]))).seq = .irq [0x40, 0, 0x10] ∧
    (edgePending []).seq = .idle ∧ (edgePending []).irqPending = true ∧ rstAsserted (edgePending []) = false ∧
    (presented 0x1100000001 []).ready = true ∧ decode .default 0x1100000001 [] = .ok (.setlr true) ∧
    runSteps 4 { presented 0x1100000001 [] with inputs := busAnswers [0x09, 0, 0, 0] } =
      nextOf (exec (.setlr true) (readyWith (busAnswers [0x09, 0, 0, 0]))) := by decide

theorem witness_EdgesOnlyLatch :
    (nextOf (exec (.setmode 2) { readyWith [.bus (.byte 0xE9), .dio0Rise, .bus (.byte 0)] with cbArmed := true })).map
      (fun t => (t.seq, t.irqPending)) = some (.idle, true) := by decide

theorem witness_ShadowsWrittenByTheirCommands :
    Input.rst ∉ (readyWith (busAnswers [0, 0, 0, 0x81, 0])).inputs ∧
    (nextOf (exec (.setfreq 868000000) (readyWith (busAnswers [0, 0, 0, 0x81, 0])))).map State.freqShadow =
      some (some 868000000) ∧
    (nextOf (exec (.setfreq 868000000) (readyWith (busAnswers [0, 0, 0, 0x81] ++ [.bus .error])))).map State.freqShadow =
      some none := by decide

/-- A unit inside a session with the chip: the log holds these transfers. -/
def viewOf (log : List Event) : ChipView := chipView .default log

/-- Three bytes in two `WRITE`s after `BEGINPKT`, with the answers of an honest chip. -/
theorem witness_PayloadIntegrity :
    (readyWith []).cfg.legal = true ∧
    (runToOk [.beginpkt, .write [0x01], .write [0x48, 0x69]]
      (readyWith (busAnswers ([0x89, 0, 0, 0] ++ [0x00, 0, 0] ++ [0x01, 0, 0, 0])))).map
      (fun t => (chipHonest t.cfg .unknown t.log, (chipView t.cfg t.log).faulted, loraDuty t.cfg (chipView t.cfg t.log),
        (chipView t.cfg t.log).fifo)) =
      some (true, false, true, [(0, 0x01), (1, 0x48), (2, 0x69)]) := by decide

/-- T8.4: 433 000 100 Hz. -/
theorem witness_FrequencyRoundTrip :
    (readyWith []).cfg.legal = true ∧ (readyWith []).cfg.fxoscHz = 32000000 ∧ (readyWith []).cfg.frfShift = 19 ∧
    (runToOk [.setfreq 433000100, .rdreg 0x06, .rdreg 0x07, .rdreg 0x08]
      (readyWith (busAnswers [0, 0, 0, 0x89, 0, 0x6C, 0x40, 0x01]))).map
      (fun t => (chipHonest t.cfg .unknown t.log, (chipView t.cfg t.log).faulted, loraDuty t.cfg (chipView t.cfg t.log),
        okResults t.log)) =
      some (true, false, true, [0, 0x6C, 0x40, 0x01]) ∧
    (chipView (readyWith []).cfg (readyWith []).log).opMode = none ∧
    steadyModeDuty .default (viewOf [rd 0x01 0x89]) (.setfreq 433000100) = true := by decide

/-- V4.4, V4.7 and V4.14; the first frequency refused. -/
theorem witness_FreqCodeTruncates :
    (1023999999 : BitVec 32).toNat < 1024000000 ∧ 1024000000 ≤ (1024000000 : BitVec 32).toNat ∧
    State.reset.seq = .idle ∧
    freqCode .default 62 = 1 ∧ freqCode .default 433000100 = 0x6C4001 ∧
    freqCode .default 1023999999 = 0xFFFFFF := by decide

/-- T8.1, and both sides of the least bin. -/
theorem witness_QuantizeTakesCeiling :
    quantize .default 100000 = 7 ∧ quantize .default 500000 = 9 ∧ quantize .default 600000 = 9 ∧ quantize .default 7800 = 0 ∧ quantize .default 7801 = 1 ∧
    (∃ bin ∈ UnitCfg.default.bwBins, (500000 : BitVec 32).toNat ≤ bin) ∧
    (∀ bin ∈ UnitCfg.default.bwBins, bin < (600000 : BitVec 32).toNat) := by decide

/-- V4.27, V4.32 and V4.43. -/
theorem witness_PowerByteClamps :
    UnitCfg.default.legal = true ∧ powerByte .default 18 true = 0x8F ∧ powerByte .default 1 true = 0x80 ∧
    powerByte .default 0xFF false = 0x70 := by decide

/-! ## The premises about the chip -/

/-- TX-done seen clear and then set in TX: the chip is in STANDBY (spec/20_memory.md R50). -/
theorem test_chip_tx_done_means_standby :
    (viewOf [rd 0x01 0x89, wr 0x81 0x8B, rd 0x12 0x00, rd 0x12 0x08]).opMode = some 0x89 ∧
    answerAllowed .default (viewOf [rd 0x01 0x89, wr 0x81 0x8B, rd 0x12 0x00, rd 0x12 0x08]) 0x01 0x8B = false := by decide

/-- STANDBY read where TX was written: TX-done is set, until it is cleared (spec/20_memory.md R48, R50). -/
theorem test_chip_standby_means_tx_done :
    answerAllowed .default (viewOf [rd 0x01 0x89, wr 0x81 0x8B, rd 0x01 0x89]) 0x12 0x00 = false ∧
    answerAllowed .default (viewOf [rd 0x01 0x89, wr 0x81 0x8B, rd 0x01 0x89]) 0x12 0x08 = true ∧
    answerAllowed .default (viewOf [rd 0x01 0x89, wr 0x81 0x8B, wr 0x92 0x08, rd 0x01 0x89]) 0x12 0x00 = true := by decide

/-- TX that is read, not written, and TX that goes on after the flag was cleared (spec/20_memory.md R50). -/
theorem test_chip_tx_read :
    answerAllowed .default (viewOf [rd 0x01 0x8B, rd 0x01 0x89]) 0x12 0x00 = false ∧
    answerAllowed .default (viewOf [wr 0x81 0x8B, wr 0x92 0x08, rd 0x01 0x8B, rd 0x01 0x89]) 0x12 0x00 = true ∧
    (viewOf [wr 0x81 0x8B, wr 0x92 0x08, rd 0x01 0x8B, rd 0x01 0x89]).flagsSet = 0x08 ∧
    answerAllowed .default (viewOf [rd 0x01 0x89, wr 0x81 0x8B, wr 0x92 0x08, rd 0x01 0x8B, rd 0x01 0x89]) 0x12 0x00 =
      false := by decide

/-- After a SLEEP, and after a long-range change, neither the pointer nor the flags nor the storage are known; where the
long-range bit is not known to be set no answer is required (spec/91_not_in_source.md N21, spec/70_reset_and_hazards.md
R229). -/
theorem test_chip_forgets :
    (let v := viewOf [rd 0x01 0x89, rd 0x12 0x40, wr 0x8D 0x10, wr 0xB9 0x34]
     (v.fifoPtr, v.flagsSet, v.stored) = (some 0x10, 0x40, [(0x39, 0x34)])) ∧
    (let v := viewOf [rd 0x01 0x89, rd 0x12 0x40, wr 0x8D 0x10, wr 0xB9 0x34, wr 0x81 0x88]
     (v.fifoPtr, v.flagsSet, v.stored) = (none, 0x00, [])) ∧
    (let v := viewOf [rd 0x01 0x88, rd 0x12 0x40, wr 0x8D 0x10, wr 0xB9 0x34, wr 0x81 0x08]
     (v.fifoPtr, v.flagsSet, v.stored, v.faulted) = (none, 0x00, [], false)) ∧
    answerAllowed .default (viewOf [rd 0x01 0x09, rd 0x12 0x40, wr 0x8D 0x10, wr 0xB9 0x34]) 0x12 0x00 = true ∧
    answerAllowed .default (viewOf [rd 0x01 0x09, rd 0x12 0x40, wr 0x8D 0x10, wr 0xB9 0x34]) 0x0D 0x11 = true ∧
    answerAllowed .default (viewOf [rd 0x01 0x09, rd 0x12 0x40, wr 0x8D 0x10, wr 0xB9 0x34]) 0x39 0x35 = true := by decide

/-- A FIFO byte written in STANDBY is read back; not after a SLEEP, and not past 0xFF (spec/20_memory.md R49,
spec/91_not_in_source.md N5, N21). -/
theorem test_chip_fifo :
    answerAllowed .default (viewOf [rd 0x01 0x89, wr 0x81 0x89, wr 0x8D 0x10, wr 0x80 0x55, wr 0x8D 0x10]) 0x00 0x56 = false ∧
    answerAllowed .default (viewOf [rd 0x01 0x89, wr 0x81 0x89, wr 0x8D 0x10, wr 0x80 0x55, wr 0x81 0x88, wr 0x8D 0x10])
      0x00 0x56 = true ∧
    (viewOf [rd 0x01 0x89, wr 0x81 0x89, wr 0x8D 0x10, wr 0x80 0x55, wr 0x81 0x88]).faulted = false ∧
    (viewOf [rd 0x01 0x89, wr 0x81 0x89, wr 0x8D 0xFF, wr 0x80 0x55]).fifoPtr = none := by decide

/-- Only configuration registers read back: 0x61 need not (spec/20_memory.md R47, spec/93_implementation_defined.md U8). -/
theorem test_chip_storage :
    answerAllowed .default (viewOf [wr 0xB9 0x34, rd 0x01 0x89]) 0x39 0x35 = false ∧
    answerAllowed .default (viewOf [wr 0xB9 0x34]) 0x39 0x35 = true ∧
    answerAllowed .default (viewOf [rd 0x01 0x89, wr 0xE1 0x34]) 0x61 0x35 = true := by decide

/-- A raw write of the operating mode that may change the long-range bit outside SLEEP (spec/93_implementation_defined.md
U1): known to, not known, and known not to. -/
theorem test_chip_faulted :
    (viewOf [rd 0x01 0x89, wr 0x81 0x09]).faulted = true ∧ (viewOf [wr 0x81 0x09]).faulted = true ∧
    (viewOf [rd 0x01 0x89, .xfer 0x81 0x8D .error, wr 0x81 0x09]).faulted = true ∧
    (viewOf [rd 0x01 0x88, wr 0x81 0x08]).faulted = false := by decide

/-! ## Text -/

/-- Only `level` carries a minus sign (spec/30_encoding.md R81). -/
theorem test_text_signs :
    assembleLine "SETFREQK -1, 2000" = none ∧ assembleLine "RDREG -0" = none ∧
    assembleLine "SETTXPWR -128, 1" = some [.settxpwr 0x80 true] := by decide

/-- Data bytes or one string, never both (spec/30_encoding.md R81). -/
theorem test_text_payload :
    assembleLine "WRITE 1, \"Hi\"" = none ∧ assembleLine "SEND \"Hi\", 1" = none ∧
    assembleLine "WRITE 1, 0x48" = some [.write [0x01, 0x48]] ∧ assembleLine "WRITE" = some [.write []] := by decide

/-! ## Duties of the host -/

/-- The ten setters, each answered `OK`. -/
def settersOk : List (Instr × Status) :=
  [(.setfreq 868000000, .ok), (.settxpwr 17 true, .ok), (.setbw 125000, .ok), (.setsf 7, .ok), (.setldr 2, .ok),
   (.setcr 5, .ok), (.setpreamble 8, .ok), (.setimpl false, .ok), (.setsync 0x34, .ok), (.setcrc true, .ok)]

/-- `INIT` tried again after `ERR_BUS`; the setters in order; for interrupts `ONRECV 1` and then `RECEIVE`
(spec/70_reset_and_hazards.md R211). -/
theorem test_boot_order :
    bootComplete false ((.init, .errBus) :: (.init, .ok) :: settersOk) = true ∧
    bootComplete true ((.init, .ok) :: settersOk) = false ∧
    bootComplete true ((.init, .ok) :: settersOk ++ [(.onrecv true, .ok), (.receive 0, .ok)]) = true ∧
    bootDuty true ((.init, .ok) :: settersOk ++ [(.receive 0, .ok)]) = false ∧
    bootDuty false [(.init, .errVersion), (.setfreq 868000000, .errState)] = false ∧
    bootDuty false [(.init, .ok), (.settxpwr 17 true, .ok)] = false ∧
    bootDuty false [(.init, .ok), (.receive 0, .ok)] = false ∧ bootDuty false [(.setfreq 868000000, .errState)] = false := by
  decide

/-! ## Ports -/

/-- The 4-bit codes (spec/30_encoding.md R75). -/
theorem test_status_codes :
    [Status.ok, .errOp, .errArg, .errState, .errVersion, .errBus, .errTimeout].map (statusCode .default) =
      [0, 1, 2, 3, 4, 5, 6] ∧
    responseRecord .default (.response .errVersion 0x22 []) = some (4, 0x22, []) := by decide

/-- The status port and the protocol state (spec/10_state.md R23, R32). -/
theorem test_status_port :
    State.reset.statusPort = ⟨.uninit, none, none, false, false, false⟩ ∧ State.reset.pstate = none ∧
    (readyWith []).pstate = some 1 := by decide

/-- An event not taken is replaced (spec/60_exceptions.md R190). -/
theorem test_callback_port :
    (runSteps 5 { edgePending (busAnswers [0x40, 0, 0, 0, 0]) with callbackPort := some (.payload [1]) }).map
      State.callbackPort = some (some (.payload [])) ∧
    (nextOf (step { readyWith [.takeCallback] with callbackPort := some (.payload [1]) })).map State.callbackPort =
      some none := by decide

end Sys2Proof.Tests
end

section
/-! SUPPORT. Where the run of a script leads: a property that holds while a sequence waits (`Mid`) and one that holds
where it has ended (`End`) are carried through starting, running and resuming it, once for every sequence. -/

namespace Sys2Proof.Machine

open Sys2Proof

/-! ## The command port -/

/-- A command from the port comes with the state after something was taken from the port. -/
theorem eq_takeCommand_of_command {i : Instr} {s t : State} (h : fetchCommand s = .command i t) :
    ∃ n, t = s.takeCommand n := by
  rcases fetchCommand_cases s with h' | ⟨w, ws, j, -, -, h'⟩ | ⟨w, ws, -, -, h'⟩ | ⟨w, ws, -, -, h'⟩ <;>
    rw [h'] at h <;> cases h
  exact ⟨_, rfl⟩

/-- So does a refusal. -/
theorem eq_takeCommand_of_rejected {st : Status} {s t : State} (h : fetchCommand s = .rejected st t) :
    ∃ n, t = s.takeCommand n := by
  rcases fetchCommand_cases s with h' | ⟨w, ws, j, -, -, h'⟩ | ⟨w, ws, -, -, h'⟩ | ⟨w, ws, -, -, h'⟩ <;>
    rw [h'] at h <;> cases h
  · exact ⟨_, rfl⟩
  · exact ⟨_, rfl⟩

/-! ## The shape of a settled script -/

/-- A settled script has ended or waits for a transfer. -/
theorem skip_finish_or_waits (p : Script) : (∃ f, p.skip = .finish f) ∨ ∃ ad, p.skip.request = some ad := by
  induction p with
  | finish f => exact .inl ⟨f, rfl⟩
  | assign a p ih => exact ih
  | xfer a d k => exact .inr ⟨(a, d), rfl⟩
  | poll a d stop n k => exact .inr ⟨(a, d), rfl⟩

theorem residual_skip (p : Script) (trail : List Byte) : (p.residual trail).skip = p.residual trail := by
  induction trail generalizing p with
  | nil => exact skip_skip p
  | cons b trail ih => exact ih _

/-- Starting a sequence is running what follows its leading assignments. -/
theorem startScript_eq (p : Script) (s : State) : startScript p s = runScript s.inputs p.skip (p.settle s).2 := by
  simp only [startScript, settle_fst]

@[simp] theorem complete_seq (f : Finish) (s : State) : (f.complete s).seq = .idle := by cases f <;> rfl

/-! ## `Leads` -/

/-- Carried out from `s`, the script keeps `Mid` wherever it waits and ends in `End`, if `Mid` is kept by all that lands
while it waits. Its own steps are looked at here, the outside world in `RunKeeps`. -/
def Script.Leads (Mid End : State → Prop) : Script → State → Prop
  | .finish f, s => ∀ es, End (f.complete { s with inputs := es })
  | .assign a p, s => p.Leads Mid End (a.apply s)
  | .xfer _ _ k, s => Mid s ∧ ∀ b t, Mid t → (k b).Leads Mid End t
  | .poll _ _ _ _ k, s => Mid s ∧ ∀ n b t, Mid t → (k n b).Leads Mid End t

/-- What lands while a sequence waits keeps `Mid`, and where it stops there, waiting or at a `BusError`, `End` holds. -/
structure RunKeeps (Mid End : State → Prop) : Prop where
  wait : ∀ s es, Mid s → End { s with inputs := es }
  byte : ∀ s a d b, Mid s → Mid (s.transferred a d b)
  error : ∀ s a d es, Mid s → End (State.busFail { s with inputs := es, log := s.log ++ [.xfer a d .error] })
  edge : ∀ s, Mid s → Mid s.latchEdge
  command : ∀ s w bytes, Mid s → Mid (s.present w bytes)
  take : ∀ s, Mid s → Mid s.takeCallback

/-- A reset that lands while a sequence waits leads to `End`. -/
def ResetKeeps (Mid End : State → Prop) : Prop :=
  ∀ s a d later, Mid s → End (State.applyReset { s with inputs := later, log := s.log ++ [.abandoned a d] })

/-- A sequence that stops without a further assignment leads to `End`. -/
def StopKeeps (Mid End : State → Prop) : Prop :=
  ∀ (f : Finish) (s : State) (es : List Input), Mid s → End (f.complete { s with inputs := es })

section
variable {Mid End : State → Prop} {p : Script} {s t : State}

theorem leads_settle (h : p.Leads Mid End s) : p.skip.Leads Mid End (p.settle s).2 := by
  induction p generalizing s with
  | assign a p ih => exact ih h
  | _ => exact h

/-- A script that waits goes on from every state of `Mid`. -/
theorem leads_waiting {ad : Byte × Byte} (hp : p.skip.request = some ad) (h : p.skip.Leads Mid End s) :
    Mid s ∧ ∀ t, Mid t → p.skip.Leads Mid End t ∧ ∀ b, (p.skip.feed b).Leads Mid End t := by
  induction p with
  | finish f => cases hp
  | assign a p ih => exact ih hp h
  | xfer a d k => exact ⟨h.1, fun t ht => ⟨⟨ht, h.2⟩, fun b => h.2 b t ht⟩⟩
  | poll a d stop n k =>
    refine ⟨h.1, fun t ht => ⟨⟨ht, h.2⟩, fun b => ?_⟩⟩
    simp only [Script.skip, feed_poll]
    split
    · exact h.2 _ b t ht
    · exact ⟨ht, h.2⟩

/-- A script that waits is fed the next byte and settles into one that leads on. -/
theorem leads_fed (hk : RunKeeps Mid End) {a d b : Byte} (hp : p.skip.request = some (a, d))
    (h : p.skip.Leads Mid End s) :
    (p.skip.feed b).skip.Leads Mid End ((p.skip.feed b).settle (s.transferred a d b)).2 := by
  obtain ⟨hs, hgo⟩ := leads_waiting hp h
  exact leads_settle ((hgo _ (hk.byte s a d b hs)).2 b)

/-- The induction over the inputs: a settled script that leads to `End` ends there. A reset has to be accounted for only
where the inputs hold one. -/
theorem leads_runScript (hk : RunKeeps Mid End) {es : List Input}
    (hrst : .rst ∈ es → ResetKeeps Mid End)
    (h : p.skip.Leads Mid End s) : End (runScript es p.skip s) := by
  induction es generalizing p s with
  | nil =>
    rcases skip_finish_or_waits p with ⟨f, hf⟩ | ⟨ad, hp⟩
    · rw [hf] at h ⊢
      exact h []
    · rw [runScript_waits hp]
      exact hk.wait s [] (leads_waiting hp h).1
  | cons e es ih =>
    rcases skip_finish_or_waits p with ⟨f, hf⟩ | ⟨⟨a, d⟩, hp⟩
    · rw [hf] at h ⊢
      exact h (e :: es)
    · obtain ⟨hs, hgo⟩ := leads_waiting hp h
      have goOn : ∀ {q : Script} {t}, q.skip.Leads Mid End t → End (runScript es q.skip t) :=
        ih fun hr => hrst (List.mem_cons_of_mem _ hr)
      rw [runScript_cons hp]
      cases e with
      | bus r =>
        cases r with
        | byte b =>
          simp only [settle_fst]
          exact goOn (leads_fed hk hp h)
        | error => exact hk.error s a d es hs
      | dio0Rise => exact goOn (hgo _ (hk.edge s hs)).1
      | rst => exact hrst (by simp) s a d es hs
      | command w bytes => exact goOn (hgo _ (hk.command s w bytes hs)).1
      | takeCallback => exact goOn (hgo _ (hk.take s hs)).1

/-- What is left behind the leading assignments goes on from every state of `Mid`. -/
theorem leads_skip (hstop : StopKeeps Mid End)
    (h : p.Leads Mid End s) (ht : Mid t) : p.skip.Leads Mid End t := by
  rcases skip_finish_or_waits p with ⟨f, hf⟩ | ⟨ad, hp⟩
  · rw [hf]
    exact fun es => hstop f t es ht
  · exact ((leads_waiting hp (leads_settle h)).2 t ht).1

/-- Starting a script that leads to `End` does so. -/
theorem leads_startScript (hk : RunKeeps Mid End)
    (hrst : .rst ∈ s.inputs → ResetKeeps Mid End)
    (h : p.Leads Mid End s) : End (startScript p s) := by
  rw [startScript_eq]
  exact leads_runScript hk hrst (leads_settle h)

/-- Every position of a script that leads to `End` does so from every state of `Mid`: also the positions no run reaches,
as long as stopping short there is `End`. -/
theorem leads_residual (hstop : StopKeeps Mid End)
    (h : p.Leads Mid End s) (ht : Mid t) (trail : List Byte) : (p.residual trail).Leads Mid End t := by
  have hskip := leads_skip hstop h ht
  induction trail generalizing p s with
  | nil => exact hskip
  | cons b trail ih =>
    have hfed : (p.skip.feed b).Leads Mid End t := by
      rcases skip_finish_or_waits p with ⟨f, hf⟩ | ⟨ad, hp⟩
      · rwa [hf] at hskip ⊢
      · exact ((leads_waiting hp hskip).2 t ht).2 b
    exact ih hfed (leads_skip hstop hfed ht)

/-- Resuming a script that leads to `End`, at whatever position, does so. -/
theorem leads_resumeScript (hk : RunKeeps Mid End)
    (hstop : StopKeeps Mid End)
    (hrst : ResetKeeps Mid End)
    (h : p.Leads Mid End s) (ht : Mid t) (trail : List Byte) : End (resumeScript p trail t) := by
  have hres : (p.residual trail).skip.Leads Mid End t := by
    rw [residual_skip]
    exact leads_residual hstop h ht trail
  have hrun := leads_runScript hk (es := t.inputs) (fun _ => hrst) hres
  rwa [residual_skip] at hrun

/-- A command ends in `End` if each of its three outcomes does: refused operands, refused time, a sequence that leads
there. -/
theorem leads_exec {i : Instr} (hk : RunKeeps Mid End)
    (hrst : .rst ∈ s.inputs → ResetKeeps Mid End)
    (hrefused : ∀ st, st ≠ .ok → End (s.respond st 0 []))
    (hruns : i.wf s.cfg = true → lifecycleAllows i s = true →
      (sequenceOf i s).Leads Mid End { s with seq := .fg i [] })
    (h : exec i s = .next t) : End t := by
  rw [exec_eq] at h
  rcases runCommand_cases i (sequenceOf i s) s with ⟨-, he⟩ | ⟨-, -, he⟩ | ⟨hw, hl, he⟩ <;> rw [he] at h <;> cases h
  · exact hrefused _ (by decide)
  · exact hrefused _ (by decide)
  · exact leads_startScript hk hrst (hruns hw hl)

end

/-! ## The shared operations as steps of `Leads` -/

section
variable {Mid End : State → Prop} {p : Script} {s : State}

@[simp] theorem leads_assign (a : Assign) : (Script.assign a p).Leads Mid End s ↔ p.Leads Mid End (a.apply s) := Iff.rfl
@[simp] theorem leads_busRead (c : UnitCfg) (addr : Addr) (k : Byte → Script) :
    (busRead c addr k).Leads Mid End s ↔ Mid s ∧ ∀ b t, Mid t → (k b).Leads Mid End t := Iff.rfl
@[simp] theorem leads_busWrite (c : UnitCfg) (addr : Addr) (v : Byte) :
    (busWrite c addr v p).Leads Mid End s ↔ Mid s ∧ ∀ t, Mid t → p.Leads Mid End t :=
  and_congr_right fun _ => forall_const Byte

theorem leads_rmw {c : UnitCfg} {addr : Addr} {mask val : Byte} {k : Byte → Script} (hs : Mid s)
    (hk : ∀ w t, Mid t → (k w).Leads Mid End t) : (rmw c addr mask val k).Leads Mid End s := by
  simp only [rmw, leads_busRead, leads_busWrite]
  exact ⟨hs, fun old t ht => ⟨ht, hk _⟩⟩

theorem leads_setMode {c : UnitCfg} {sel : BitVec 3} (hs : Mid s)
    (hp : ∀ w t, Mid t → p.Leads Mid End (Assign.apply (.modeShadow w) t)) : (setMode c sel p).Leads Mid End s :=
  leads_rmw hs hp

theorem leads_setImplicit {c : UnitCfg} {b : Bool} (hs : Mid s)
    (hp : ∀ t, Mid t → p.Leads Mid End (Assign.apply (.implicitShadow b) t)) : (setImplicit c b p).Leads Mid End s := by
  unfold setImplicit rmwField
  exact leads_rmw hs fun _ => hp

theorem leads_setLongRange {c : UnitCfg} {en : Bool} (hkeep : ∀ w t, Mid t → Mid (Assign.apply (.modeShadow w) t))
    (hs : Mid s) (hp : ∀ w t, Mid t → p.Leads Mid End (Assign.apply (.modeShadow w) t)) :
    (setLongRange c en p).Leads Mid End s := by
  simp only [setLongRange, leads_busRead, leads_busWrite, leads_assign]
  exact ⟨hs, fun m0 t0 h0 => ⟨h0, fun t1 h1 => ⟨hkeep _ t1 h1, fun t2 h2 => ⟨hkeep _ t2 h2, hp _⟩⟩⟩⟩

end

/-! ## What a script may assign -/

/-- Every assignment of the script is one that `A` permits. -/
def Script.AssignsOnly (A : Assign → Prop) : Script → Prop
  | .finish _ => True
  | .assign a p => A a ∧ p.AssignsOnly A
  | .xfer _ _ k => ∀ b, (k b).AssignsOnly A
  | .poll _ _ _ _ k => ∀ n b, (k n b).AssignsOnly A

section
variable {A : Assign → Prop} {p : Script}

@[simp] theorem assignsOnly_finish (f : Finish) : (Script.finish f).AssignsOnly A := trivial
@[simp] theorem assignsOnly_assign (a : Assign) : (Script.assign a p).AssignsOnly A ↔ A a ∧ p.AssignsOnly A := Iff.rfl
@[simp] theorem assignsOnly_busRead (c : UnitCfg) (addr : Addr) (k : Byte → Script) :
    (busRead c addr k).AssignsOnly A ↔ ∀ b, (k b).AssignsOnly A := Iff.rfl
@[simp] theorem assignsOnly_busPoll (c : UnitCfg) (addr : Addr) (stop : Nat → Byte → Bool) (k : Nat → Byte → Script) :
    (busPoll c addr stop k).AssignsOnly A ↔ ∀ n b, (k n b).AssignsOnly A := Iff.rfl
@[simp] theorem assignsOnly_busWrite (c : UnitCfg) (addr : Addr) (v : Byte) :
    (busWrite c addr v p).AssignsOnly A ↔ p.AssignsOnly A := forall_const Byte

@[simp] theorem assignsOnly_respondOk (result : BitVec 32) : (respondOk result).AssignsOnly A := trivial
@[simp] theorem assignsOnly_raise (st : Status) (info : BitVec 32) : (raise st info).AssignsOnly A := trivial
@[simp] theorem assignsOnly_ite (b : Prop) [Decidable b] (q : Script) :
    (if b then p else q).AssignsOnly A ↔ (b → p.AssignsOnly A) ∧ (¬ b → q.AssignsOnly A) := by
  split <;> simp_all

@[simp] theorem assignsOnly_rmw (c : UnitCfg) (addr : Addr) (mask val : Byte) (k : Byte → Script) :
    (rmw c addr mask val k).AssignsOnly A ↔ ∀ old, (k (maskedUpdate old mask val)).AssignsOnly A := by
  simp [rmw]

@[simp] theorem assignsOnly_setMode (c : UnitCfg) (sel : BitVec 3) :
    (setMode c sel p).AssignsOnly A ↔ (∀ old, A (.modeShadow (withSelector c old sel))) ∧ p.AssignsOnly A := by
  simp [setMode, rmw, withSelector, forall_and]

@[simp] theorem assignsOnly_setImplicit (c : UnitCfg) (b : Bool) :
    (setImplicit c b p).AssignsOnly A ↔ A (.implicitShadow b) ∧ p.AssignsOnly A := by
  simp [setImplicit, rmwField, rmw]

theorem assignsOnly_writeFifo (c : UnitCfg) (bytes : List Byte) (h : p.AssignsOnly A) :
    (writeFifo c bytes p).AssignsOnly A := by
  induction bytes with
  | nil => exact h
  | cons b bytes ih => exact (assignsOnly_busWrite c _ b).2 ih

theorem assignsOnly_readFifo (c : UnitCfg) {k : List Byte → Script} (h : ∀ bytes, (k bytes).AssignsOnly A) (n : Nat)
    (got : List Byte) : (readFifo c k n got).AssignsOnly A := by
  induction n generalizing got with
  | zero => exact h got
  | succ n ih => exact fun b => ih _

theorem assignsOnly_extractPayload (c : UnitCfg) (implicit : Bool) {k : List Byte → Script}
    (h : ∀ bytes, (k bytes).AssignsOnly A) : (extractPayload c implicit k).AssignsOnly A := by
  simp only [extractPayload, assignsOnly_busRead, assignsOnly_busWrite]
  exact fun _ len => assignsOnly_readFifo c h len.toNat []

theorem Script.AssignsOnly.skip (h : p.AssignsOnly A) : p.skip.AssignsOnly A := by
  induction p with
  | assign a p ih => exact ih h.2
  | _ => exact h

theorem Script.AssignsOnly.feed (h : p.AssignsOnly A) (b : Byte) : (p.feed b).AssignsOnly A := by
  cases p with
  | finish f => exact h
  | assign a p => exact h
  | xfer a d k => exact h b
  | poll a d stop n k =>
    rw [feed_poll]
    split
    · exact h _ b
    · exact h

theorem Script.AssignsOnly.residual (h : p.AssignsOnly A) (trail : List Byte) : (p.residual trail).AssignsOnly A := by
  induction trail generalizing p with
  | nil => exact h.skip
  | cons b trail ih => exact ih (h.skip.feed b)

/-- Where each permitted assignment keeps `Mid`, and ending is `End`, the script leads to `End`. -/
theorem Script.AssignsOnly.leads {Mid End : State → Prop} {s : State}
    (hstop : StopKeeps Mid End)
    (hkeep : ∀ a s, A a → Mid s → Mid (a.apply s)) (h : p.AssignsOnly A) (hs : Mid s) : p.Leads Mid End s := by
  induction p generalizing s with
  | finish f => exact fun es => hstop f s es hs
  | assign a p ih => exact ih h.2 (hkeep a s h.1 hs)
  | xfer a d k ih => exact ⟨hs, fun b t ht => ih b (h b) ht⟩
  | poll a d stop n k ih => exact ⟨hs, fun n b t ht => ih n b (h n b) ht⟩

end

/-! ## The frame of a run: what no permitted assignment names is left -/

/-- From `s` to `t` the parameters stay, and so does every element that no assignment in `A` names. The latch of edges,
the callback port and the log are the outside world's too and are not among these elements. -/
structure Frame (A : Assign → Prop) (s t : State) : Prop where
  cfg : t.cfg = s.cfg
  ustate : (∀ v, ¬ A (.ustate v)) → t.ustate = s.ustate
  modeShadow : (∀ w, ¬ A (.modeShadow w)) → (∀ sel, ¬ A (.modeSelector sel)) → t.modeShadow = s.modeShadow
  freqShadow : (∀ f, ¬ A (.freqShadow f)) → t.freqShadow = s.freqShadow
  implicitShadow : (∀ b, ¬ A (.implicitShadow b)) → t.implicitShadow = s.implicitShadow
  cbArmed : (∀ b, ¬ A (.cbArmed b)) → t.cbArmed = s.cbArmed

/-- Nothing of the frame is written at all. -/
abbrev Unwritten : State → State → Prop := Frame fun _ => False

section
variable {A : Assign → Prop} {s t u : State}

theorem Frame.refl (A : Assign → Prop) (s : State) : Frame A s s :=
  ⟨rfl, fun _ => rfl, fun _ _ => rfl, fun _ => rfl, fun _ => rfl, fun _ => rfl⟩

theorem Frame.trans (h : Frame A s t) (h' : Frame A t u) : Frame A s u where
  cfg := h'.cfg.trans h.cfg
  ustate hA := (h'.ustate hA).trans (h.ustate hA)
  modeShadow hA hA' := (h'.modeShadow hA hA').trans (h.modeShadow hA hA')
  freqShadow hA := (h'.freqShadow hA).trans (h.freqShadow hA)
  implicitShadow hA := (h'.implicitShadow hA).trans (h.implicitShadow hA)
  cbArmed hA := (h'.cbArmed hA).trans (h.cbArmed hA)

theorem Frame.mono {B : Assign → Prop} (hAB : ∀ a, A a → B a) (h : Frame A s t) : Frame B s t where
  cfg := h.cfg
  ustate hB := h.ustate fun v hv => hB v (hAB _ hv)
  modeShadow hB hB' := h.modeShadow (fun w hw => hB w (hAB _ hw)) fun sel hsel => hB' sel (hAB _ hsel)
  freqShadow hB := h.freqShadow fun f hf => hB f (hAB _ hf)
  implicitShadow hB := h.implicitShadow fun b hb => hB b (hAB _ hb)
  cbArmed hB := h.cbArmed fun b hb => hB b (hAB _ hb)

theorem Frame.of_unwritten (h : Unwritten s t) : Frame A s t := h.mono fun _ ha => ha.elim

theorem unwritten_inputs (s : State) (es : List Input) : Unwritten s { s with inputs := es } := by constructor <;> simp
theorem unwritten_seq (s : State) (q : Seq) : Unwritten s { s with seq := q } := by constructor <;> simp
theorem unwritten_transferred (s : State) (a d b : Byte) : Unwritten s (s.transferred a d b) := by constructor <;> simp
theorem unwritten_latchEdge (s : State) : Unwritten s s.latchEdge := by constructor <;> simp
theorem unwritten_present (s : State) (w : CmdWord) (bytes : List Byte) : Unwritten s (s.present w bytes) := by
  constructor <;> simp
theorem unwritten_takeCallback (s : State) : Unwritten s s.takeCallback := by constructor <;> simp
theorem unwritten_takeCommand (s : State) (n : Nat) : Unwritten s (s.takeCommand n) := by constructor <;> simp
theorem unwritten_giveBack (s : State) (later : List Input) : Unwritten s (s.giveBack later) := by constructor <;> simp
theorem unwritten_enterHandler (s : State) : Unwritten s s.enterHandler := by constructor <;> simp
theorem unwritten_respond (s : State) (st : Status) (r : BitVec 32) (data : List Byte) :
    Unwritten s (s.respond st r data) := by constructor <;> simp
theorem unwritten_complete (f : Finish) (s : State) : Unwritten s (f.complete s) := by
  cases f <;> constructor <;> simp [Finish.complete]
theorem unwritten_busFail (s : State) : Unwritten s s.busFail := by
  unfold State.busFail
  cases s.seq <;> constructor <;> simp
theorem unwritten_inputs_log (s : State) (es : List Input) (log : List Event) :
    Unwritten s { s with inputs := es, log := log } := by constructor <;> simp

/-- A permitted assignment keeps the frame. -/
theorem frame_apply (a : Assign) (s : State) (ha : A a) : Frame A s (a.apply s) where
  cfg := by cases a <;> rfl
  ustate hA := by cases a with | ustate v => exact absurd ha (hA v) | _ => rfl
  modeShadow hA hA' := by
    cases a with
    | modeShadow w => exact absurd ha (hA w)
    | modeSelector sel => exact absurd ha (hA' sel)
    | _ => rfl
  freqShadow hA := by cases a with | freqShadow f => exact absurd ha (hA f) | _ => rfl
  implicitShadow hA := by cases a with | implicitShadow b => exact absurd ha (hA b) | _ => rfl
  cbArmed hA := by cases a with | cbArmed b => exact absurd ha (hA b) | _ => rfl

theorem frame_runKeeps (A : Assign → Prop) (s : State) : RunKeeps (Frame A s) (Frame A s) where
  wait t es h := h.trans (.of_unwritten (unwritten_inputs t es))
  byte t a d b h := h.trans (.of_unwritten (unwritten_transferred t a d b))
  error t _ _ es h := (h.trans (.of_unwritten (unwritten_inputs_log t es _))).trans (.of_unwritten (unwritten_busFail _))
  edge t h := h.trans (.of_unwritten (unwritten_latchEdge t))
  command t w bytes h := h.trans (.of_unwritten (unwritten_present t w bytes))
  take t h := h.trans (.of_unwritten (unwritten_takeCallback t))

/-- A run leaves what its assignments do not name, unless a reset ended it. -/
theorem Script.AssignsOnly.frame_runScript {p : Script} (hp : p.AssignsOnly A) {es : List Input}
    (hr : .rst ∉ es ∨ (runScript es p.skip s).seq ≠ .idle) : Frame A s (runScript es p.skip s) := by
  have hk := frame_runKeeps A s
  have h : (.rst ∈ es ∧ (runScript es p.skip s).seq = .idle) ∨ Frame A s (runScript es p.skip s) := by
    refine leads_runScript (Mid := Frame A s) (End := fun t => (.rst ∈ es ∧ t.seq = .idle) ∨ Frame A s t)
      { hk with wait := fun t es h => .inr (hk.wait t es h), error := fun t a d es h => .inr (hk.error t a d es h) }
      (fun hr t a d later _ => .inl ⟨hr, rfl⟩) (hp.skip.leads ?_ ?_ (Frame.refl A s))
    · exact fun f t es h => .inr ((hk.wait t es h).trans (.of_unwritten (unwritten_complete f _)))
    · exact fun a t ha h => h.trans (frame_apply a t ha)
  rcases h with ⟨hmem, hidle⟩ | h
  · exact (hr.elim (fun hn => hn hmem) (fun hn => hn hidle)).elim
  · exact h

/-- Settling leaves what its assignments do not name. -/
theorem Script.AssignsOnly.frame_settle {p : Script} (hp : p.AssignsOnly A) (s : State) : Frame A s (p.settle s).2 := by
  induction p generalizing s with
  | assign a p ih => exact (frame_apply a s hp.1).trans (ih hp.2 _)
  | _ => exact Frame.refl A s

end

/-! ## Which assignments belong to a sequence -/

/-- The assignments a command may make: the spec names for each element the commands that write it
(spec/10_state.md R12 to R18); the latch and the interrupt-control port go with the callback bit. -/
def mayAssign (i : Instr) : Assign → Prop
  | .ustate _ => i = .init
  | .modeShadow _ => writesModeShadow i = true
  | .modeSelector _ => writesModeShadow i = true
  | .freqShadow f => i = .setfreq f
  | .implicitShadow _ => writesImplicitShadow i = true
  | .cbArmed _ => writesCbArmed i = true
  | .irqPending _ => writesCbArmed i = true
  | .arm => writesCbArmed i = true
  | .disarm => writesCbArmed i = true

/-- Each command makes no assignment but its own. -/
theorem sequenceOf_assignsOnly (i : Instr) (s : State) : (sequenceOf i s).AssignsOnly (mayAssign i) := by
  cases i with
  | init => simp [sequenceOf, seqInit, setLongRange, mayAssign, writesModeShadow, writesImplicitShadow, writesCbArmed]
  | rdreg addr => simp [sequenceOf, seqRdreg]
  | wrreg addr value => simp [sequenceOf, seqWrreg]
  | setmode sel => simp [sequenceOf, seqSetmode, mayAssign, writesModeShadow]
  | setlr en => simp [sequenceOf, seqSetlr, setLongRange, mayAssign, writesModeShadow]
  | setfreq f => simp [sequenceOf, seqSetfreq, mayAssign, writesModeShadow]
  | settxpwr level boost => simp [sequenceOf, seqSettxpwr]
  | setbw b => simp [sequenceOf, seqSetbw, rmwField]
  | setsf sf => simp [sequenceOf, seqSetsf, rmwField]
  | setldr ldr => simp [sequenceOf, seqSetldr, writeLdr, rmwField]
  | setcr den => simp [sequenceOf, seqSetcr, rmwField]
  | setpreamble len => simp [sequenceOf, seqSetpreamble]
  | setsync sw => simp [sequenceOf, seqSetsync]
  | setcrc en => simp [sequenceOf, seqSetcrc, rmwField]
  | setimpl en => simp [sequenceOf, seqSetimpl, mayAssign, writesImplicitShadow]
  | beginpkt => simp [sequenceOf, seqBeginpkt, mayAssign, writesModeShadow]
  | write data =>
    simp only [sequenceOf, seqWrite, assignsOnly_busRead]
    exact fun cur => assignsOnly_writeFifo _ _ (by simp)
  | endpkt => simp [sequenceOf, seqEndpkt, afterPoll, mayAssign, writesModeShadow]
  | receive size =>
    simp [sequenceOf, seqReceive, headerForSize, mayAssign, writesModeShadow, writesImplicitShadow]
  | rxpoll size =>
    simp [sequenceOf, seqRxpoll, headerForSize, mayAssign, writesModeShadow, writesImplicitShadow]
  | rdpayload => exact assignsOnly_extractPayload _ _ fun _ => assignsOnly_finish _
  | pktrssi => cases hf : s.freqShadow <;> simp [sequenceOf, seqPktrssi, hf]
  | pktsnr => simp [sequenceOf, seqPktsnr]
  | onrecv en => simp [sequenceOf, seqOnrecv, mayAssign, writesCbArmed]

/-- The handler makes no assignment (spec/60_exceptions.md R189). -/
theorem seqHandler_assignsOnly (c : UnitCfg) (implicit : Bool) : (seqHandler c implicit).AssignsOnly fun _ => False := by
  simp only [seqHandler, assignsOnly_busRead, assignsOnly_busWrite, assignsOnly_ite, assignsOnly_finish]
  exact fun v => ⟨fun _ => assignsOnly_extractPayload _ _ fun _ => assignsOnly_finish _, fun _ => trivial⟩

end Sys2Proof.Machine
end

section
/-! CERTIFICATES. The reset state and the invariant of the unit: each operation on the state keeps it, so does every
sequence, so does every step. -/

namespace Sys2Proof

open Sys2Proof.Machine

/-! ## Reset -/

/-- Settles O1: each element by evaluation; that the default record is legal is a finite check. -/
theorem resetHoldsSpecValues : Obligations.ResetHoldsSpecValues := by
  unfold Obligations.ResetHoldsSpecValues
  refine ⟨rfl, rfl, rfl, rfl, rfl, rfl, rfl, rfl, rfl, rfl, rfl, rfl, ?legal, rfl, rfl⟩
  case legal => decide

theorem coherent_of_reset {s : State} (hu : s.ustate = .uninit) (hc : s.cbArmed = false) (hp : s.irqPending = false)
    (hf : s.freqShadow = none) (hq : s.seq = .idle) : Coherent s := by
  constructor <;> simp_all [SeqCoherent]

theorem coherent_applyReset (s : State) : Coherent s.applyReset := coherent_of_reset rfl rfl rfl rfl rfl

/-- Settles O2: in the reset state every premise of the invariant is false. -/
theorem resetIsCoherent : Obligations.ResetIsCoherent := by
  unfold Obligations.ResetIsCoherent
  exact coherent_of_reset rfl rfl rfl rfl rfl

/-! ## The operations on the state keep the invariant -/

section
variable {s t : State}

/-- Where the five elements the invariant speaks of are left, only the pending bit and `u.seq` are to be looked at. -/
theorem Coherent.of_unwritten (h : Coherent s) (hf : Unwritten s t) (hp : t.irqPending = true → t.cbArmed = true)
    (hq : SeqCoherent t) : Coherent t := by
  have hu : t.ustate = s.ustate := hf.ustate fun _ => id
  have hm : t.modeShadow = s.modeShadow := hf.modeShadow (fun _ => id) fun _ => id
  have hfr : t.freqShadow = s.freqShadow := hf.freqShadow fun _ => id
  have hc : t.cbArmed = s.cbArmed := hf.cbArmed fun _ => id
  refine ⟨?_, hp, ?_, ?_, hq⟩
  · rw [hc, hu]; exact h.armed_ready
  · rw [hu, hm]; exact h.ready_mode
  · rw [hfr, hf.cfg]; exact h.freq_legal

theorem seqCoherent_idle (h : s.seq = .idle) : SeqCoherent s := by
  rw [SeqCoherent, h]
  trivial

theorem seqCoherent_fg {i : Instr} {trail : List Byte} (h : s.seq = .fg i trail) :
    SeqCoherent s ↔
      i.wf s.cfg = true ∧ (if i = .init then s.ustate = .uninit ∧ s.cbArmed = false else s.ustate = .ready) := by
  rw [SeqCoherent, h]

theorem seqCoherent_irq {trail : List Byte} (h : s.seq = .irq trail) :
    SeqCoherent s ↔ s.ustate = .ready ∧ s.cbArmed = true := by
  rw [SeqCoherent, h]

theorem seqCoherent_of_same (h : SeqCoherent s) (hf : Unwritten s t) (hq : t.seq = s.seq) : SeqCoherent t := by
  rw [SeqCoherent, hq, hf.cfg, hf.ustate fun _ => id, hf.cbArmed fun _ => id]
  exact h

/-- A sequence in agreement with the state is so one byte later. -/
theorem seqCoherent_of_push {b : Byte} (h : SeqCoherent s) (hf : Unwritten s t) (hpush : t.seq = s.seq.push b) :
    SeqCoherent t := by
  cases hq : s.seq with
  | idle => exact seqCoherent_of_same h hf (by rw [hpush, hq]; rfl)
  | fg i trail =>
    rw [hq] at hpush
    rw [seqCoherent_fg hpush, hf.cfg, hf.ustate fun _ => id, hf.cbArmed fun _ => id]
    exact (seqCoherent_fg hq).1 h
  | irq trail =>
    rw [hq] at hpush
    rw [seqCoherent_irq hpush, hf.ustate fun _ => id, hf.cbArmed fun _ => id]
    exact (seqCoherent_irq hq).1 h

/-- Nothing the invariant speaks of changes. -/
theorem Coherent.of_same (h : Coherent s) (hf : Unwritten s t) (hp : t.irqPending = s.irqPending)
    (hq : t.seq = s.seq) : Coherent t :=
  h.of_unwritten hf (by rw [hp, hf.cbArmed fun _ => id]; exact h.pending_armed)
    (seqCoherent_of_same h.seq_coherent hf hq)

/-- A sequence ends. -/
theorem Coherent.of_ended (h : Coherent s) (hf : Unwritten s t) (hp : t.irqPending = s.irqPending)
    (hq : t.seq = .idle) : Coherent t :=
  h.of_unwritten hf (by rw [hp, hf.cbArmed fun _ => id]; exact h.pending_armed) (seqCoherent_idle hq)

theorem Coherent.inputs (h : Coherent s) (es : List Input) : Coherent { s with inputs := es } :=
  h.of_same (unwritten_inputs s es) rfl rfl

theorem Coherent.transferred (h : Coherent s) (a d b : Byte) : Coherent (s.transferred a d b) :=
  h.of_unwritten (unwritten_transferred s a d b) h.pending_armed
    (seqCoherent_of_push h.seq_coherent (unwritten_transferred s a d b) rfl)

theorem Coherent.latchEdge (h : Coherent s) : Coherent s.latchEdge :=
  h.of_unwritten (unwritten_latchEdge s) (by simpa [or_imp] using h.pending_armed)
    (seqCoherent_of_same h.seq_coherent (unwritten_latchEdge s) (latchEdge_seq s))

theorem Coherent.present (h : Coherent s) (w : CmdWord) (bytes : List Byte) : Coherent (s.present w bytes) :=
  h.of_same (unwritten_present s w bytes) rfl rfl

theorem Coherent.takeCallback (h : Coherent s) : Coherent s.takeCallback :=
  h.of_same (unwritten_takeCallback s) rfl rfl

theorem Coherent.takeCommand (h : Coherent s) (n : Nat) : Coherent (s.takeCommand n) :=
  h.of_same (unwritten_takeCommand s n) rfl rfl

theorem Coherent.giveBack (h : Coherent s) (later : List Input) : Coherent (s.giveBack later) :=
  h.of_same (unwritten_giveBack s later) rfl rfl

theorem Coherent.respond (h : Coherent s) (st : Status) (r : BitVec 32) (data : List Byte) :
    Coherent (s.respond st r data) :=
  h.of_ended (unwritten_respond s st r data) rfl rfl

theorem Coherent.complete (h : Coherent s) (f : Finish) : Coherent (f.complete s) :=
  h.of_ended (unwritten_complete f s) (by cases f <;> rfl) (complete_seq f s)

theorem Coherent.busFail (h : Coherent s) : Coherent s.busFail := by
  unfold State.busFail
  cases s.seq with
  | idle => exact h
  | fg cmd trail => exact h.respond _ _ _
  | irq trail => exact h.of_ended (by constructor <;> simp) rfl rfl

/-- An edge is pending only while armed, and armed only in READY: the handler is entered in agreement
(spec/60_exceptions.md R187, R188). -/
theorem Coherent.enterHandler (h : Coherent s) (hp : s.irqPending = true) : Coherent s.enterHandler :=
  have harmed := h.pending_armed hp
  h.of_unwritten (unwritten_enterHandler s) nofun ⟨h.armed_ready harmed, harmed⟩

theorem Coherent.absorb (h : Coherent s) (e : Input) : Coherent (absorb e s) := by
  cases e with
  | bus r => exact h
  | dio0Rise => exact h.latchEdge
  | rst => exact coherent_applyReset s
  | command w bytes => exact h.present w bytes
  | takeCallback => exact h.takeCallback

theorem Coherent.idleStep (h : Coherent s) : Coherent (idleStep s) := by
  unfold Machine.idleStep
  split
  · exact h
  · exact (h.inputs _).absorb _

/-! ## The sequences keep the invariant -/

theorem coherent_runKeeps : RunKeeps Coherent Coherent where
  wait _ es h := h.inputs es
  byte _ a d b h := h.transferred a d b
  error s _ _ es h := Coherent.busFail (h.of_same (unwritten_inputs_log s es _) rfl rfl)
  edge _ h := h.latchEdge
  command _ w bytes h := h.present w bytes
  take _ h := h.takeCallback

theorem coherent_resetKeeps (Mid : State → Prop) : ResetKeeps Mid Coherent :=
  fun _ _ _ _ _ => coherent_applyReset _

theorem coherent_stopKeeps : StopKeeps Coherent Coherent := fun f _ es h => (h.inputs es).complete f

/-- The unit is inside the command, and in agreement with it. -/
def Inside (i : Instr) (s : State) : Prop := Coherent s ∧ ∃ trail, s.seq = .fg i trail

theorem inside_runKeeps (i : Instr) : RunKeeps (Inside i) Coherent where
  wait s es h := h.1.inputs es
  byte s a d b h := ⟨h.1.transferred a d b, h.2.elim fun trail hq => ⟨trail ++ [b], by simp [hq, Seq.push]⟩⟩
  error s a d es h := coherent_runKeeps.error s a d es h.1
  edge s h := ⟨h.1.latchEdge, by simpa using h.2⟩
  command s w bytes h := ⟨h.1.present w bytes, h.2⟩
  take s h := ⟨h.1.takeCallback, h.2⟩

theorem inside_stopKeeps (i : Instr) : StopKeeps (Inside i) Coherent := fun f s es h => coherent_stopKeeps f s es h.1

/-- What the invariant says of a running command: its operands are in range (spec/30_encoding.md R79), and it runs in
READY, or in UNINIT and disarmed if it is `INIT` (spec/60_exceptions.md R184, spec/45_init.md R171). -/
theorem Inside.seq_coherent {i : Instr} (h : Inside i s) :
    i.wf s.cfg = true ∧ (if i = .init then s.ustate = .uninit ∧ s.cbArmed = false else s.ustate = .ready) := by
  obtain ⟨hs, trail, hq⟩ := h
  exact (seqCoherent_fg hq).1 hs.seq_coherent

theorem Inside.ready {i : Instr} (h : Inside i s) (hi : i ≠ .init) : s.ustate = .ready := by
  simpa [hi] using h.seq_coherent.2

theorem Inside.disarmed (h : Inside .init s) : s.cbArmed = false := h.seq_coherent.2.2

theorem Inside.modeShadow {i : Instr} (h : Inside i s) (w : Byte) : Inside i (Assign.apply (.modeShadow w) s) :=
  have hs := h.1
  ⟨⟨hs.armed_ready, hs.pending_armed, fun _ => by simp, hs.freq_legal, hs.seq_coherent⟩, h.2⟩

theorem Inside.implicitShadow {i : Instr} (h : Inside i s) (b : Bool) :
    Inside i (Assign.apply (.implicitShadow b) s) :=
  have hs := h.1
  ⟨⟨hs.armed_ready, hs.pending_armed, hs.ready_mode, hs.freq_legal, hs.seq_coherent⟩, h.2⟩

/-- Each assignment of a command other than `INIT` and `ONRECV` keeps the invariant by itself. -/
theorem Inside.apply {i : Instr} {a : Assign} (hi : i ≠ .init) (hon : writesCbArmed i = false) (ha : mayAssign i a)
    (h : Inside i s) : Inside i (a.apply s) := by
  have hs := h.1
  cases a with
  | ustate v => exact absurd ha hi
  | modeShadow w => exact h.modeShadow w
  | modeSelector sel =>
    exact ⟨⟨hs.armed_ready, hs.pending_armed, by simpa using hs.ready_mode, hs.freq_legal, hs.seq_coherent⟩, h.2⟩
  | freqShadow f =>
    obtain rfl : i = .setfreq f := ha
    have hf : s.cfg.freqFits f = true := by simpa [Instr.wf, Instr.encodable, Instr.inRange] using h.seq_coherent.1
    exact ⟨⟨hs.armed_ready, hs.pending_armed, hs.ready_mode, by simpa using hf, hs.seq_coherent⟩, h.2⟩
  | implicitShadow b => exact h.implicitShadow b
  | cbArmed b => simp [mayAssign, hon] at ha
  | irqPending b => simp [mayAssign, hon] at ha
  | arm => simp [mayAssign, hon] at ha
  | disarm => simp [mayAssign, hon] at ha

/-- `ONRECV` arms the callback of a READY unit, or disarms it and drops the edge pending
(spec/44_packet_rx.md R162). -/
theorem seqOnrecv_leads {en : Bool} (h : Inside (.onrecv en) s) :
    (seqOnrecv en).Leads (Inside (.onrecv en)) Coherent s := by
  have hu : s.ustate = .ready := h.ready (by simp)
  have hm := h.1.ready_mode
  have hf := h.1.freq_legal
  cases en with
  | true => exact fun es => ⟨fun _ => hu, fun _ => rfl, hm, hf, trivial⟩
  | false => exact fun es => ⟨nofun, nofun, hm, hf, trivial⟩

/-- `INIT` disarms the callback before its first transfer, and is READY only after it has written the operating mode
(spec/45_init.md R171). -/
theorem seqInit_leads {trail : List Byte} (hf : ∀ f, s.freqShadow = some f → s.cfg.freqFits f = true)
    (hq : s.seq = .fg .init trail) (c : UnitCfg) : (seqInit c).Leads (Inside .init) Coherent s := by
  simp only [seqInit, leads_assign, leads_busRead]
  refine ⟨⟨⟨nofun, nofun, nofun, hf, ?_⟩, trail, hq⟩, fun v t ht => ?_⟩
  · refine (seqCoherent_fg (i := .init) (trail := trail) ?_).2 ⟨rfl, rfl, rfl⟩
    exact hq
  split
  · refine leads_setLongRange (fun w t h => h.modeShadow w) ht fun w t ht => ?_
    simp only [leads_busWrite]
    refine ⟨ht.modeShadow w, fun t ht => ⟨ht, fun t ht => leads_setImplicit ht fun t ht => ?_⟩⟩
    refine leads_setMode (ht.implicitShadow false) fun w t ht es => ?_
    exact ⟨fun _ => rfl, ht.1.pending_armed, fun _ => by simp [Finish.complete], ht.1.freq_legal, trivial⟩
  · intro es
    exact ⟨fun hc => absurd hc (by simp [Finish.complete, ht.disarmed]), ht.1.pending_armed, nofun, ht.1.freq_legal,
      trivial⟩

/-- Every command keeps the invariant, started or resumed. -/
theorem sequenceOf_leads {i : Instr} {trail : List Byte} (hs : i ≠ .init → Coherent s)
    (hf : ∀ f, s.freqShadow = some f → s.cfg.freqFits f = true) (hq : s.seq = .fg i trail) (t : State) :
    (sequenceOf i t).Leads (Inside i) Coherent s := by
  by_cases hi : i = .init
  · subst hi
    exact seqInit_leads hf hq t.cfg
  have hin : Inside i s := ⟨hs hi, trail, hq⟩
  cases hon : writesCbArmed i with
  | false =>
    exact (sequenceOf_assignsOnly i t).leads (inside_stopKeeps i) (fun _ _ ha h => h.apply hi hon ha) hin
  | true =>
    cases i with
    | onrecv en => exact seqOnrecv_leads hin
    | init => exact absurd rfl hi
    | _ => cases hon

/-- The handler assigns nothing, so it keeps the invariant. -/
theorem seqHandler_leads (c : UnitCfg) (implicit : Bool) (hs : Coherent s) :
    (seqHandler c implicit).Leads Coherent Coherent s :=
  (seqHandler_assignsOnly c implicit).leads coherent_stopKeeps (fun _ _ ha _ => ha.elim) hs

theorem Coherent.exec {i : Instr} (hs : Coherent s) (h : exec i s = .next t) : Coherent t := by
  refine leads_exec (inside_runKeeps i) (fun _ => coherent_resetKeeps _) (fun st _ => hs.respond st 0 [])
    (fun hw hl => sequenceOf_leads (s := { s with seq := .fg i [] }) (fun hi => ?_) hs.freq_legal rfl s) h
  have hu : s.ustate = .ready := by simpa [lifecycleAllows, hi] using hl
  exact hs.of_unwritten (unwritten_seq s _) hs.pending_armed ((seqCoherent_fg rfl).2 ⟨hw, by simp [hi, hu]⟩)

theorem Coherent.resumeCommand {i : Instr} {trail trail' : List Byte} (hs : Coherent s) (hq : s.seq = .fg i trail) :
    Coherent (resumeCommand i trail' s) :=
  leads_resumeScript (inside_runKeeps i) (inside_stopKeeps i) (coherent_resetKeeps _)
    (sequenceOf_leads (fun _ => hs) hs.freq_legal hq s) ⟨hs, trail, hq⟩ trail'

theorem Coherent.runHandler (hs : Coherent s) (hp : s.irqPending = true) : Coherent (runHandler s) :=
  leads_startScript coherent_runKeeps (fun _ => coherent_resetKeeps _)
    (seqHandler_leads _ _ (hs.enterHandler hp))

theorem Coherent.resumeHandler (hs : Coherent s) (trail : List Byte) : Coherent (resumeHandler trail s) :=
  leads_resumeScript coherent_runKeeps coherent_stopKeeps (coherent_resetKeeps _) (seqHandler_leads _ _ hs) hs trail

/-- Running for one transfer keeps the invariant where running does. -/
theorem Coherent.atomically {run : State → State} (h : Coherent (run s.forOneTransfer)) : Coherent (atomically run s) :=
  h.giveBack _

theorem Coherent.forOneTransfer (h : Coherent s) : Coherent s.forOneTransfer := h.inputs _

theorem Coherent.atomicallyExec {i : Instr} (hs : Coherent s) (h : atomicallyExec (Machine.exec i) s = .next t) :
    Coherent t := by
  rw [atomicallyExec_eq] at h
  split at h
  · rename_i u hu
    cases h
    exact (hs.forOneTransfer.exec hu).giveBack _
  · cases h
  · cases h

end

/-- Settles O3: every kind of step keeps the invariant, by what it runs. -/
theorem coherentKeptByStep : Obligations.CoherentKeptByStep := by
  unfold Obligations.CoherentKeptByStep
  intro s t hs h
  rcases step_cases s with ⟨cmd, trail, hq, he⟩ | ⟨trail, hq, he⟩ | ⟨-, -, he⟩ | ⟨-, -, hp, he⟩ |
    ⟨i, u, -, -, -, hfetch, he⟩ | ⟨st, u, -, -, -, hfetch, he⟩ | ⟨-, -, -, -, he⟩ <;> rw [he] at h
  · cases h; exact Coherent.atomically (hs.forOneTransfer.resumeCommand hq)
  · cases h; exact Coherent.atomically (hs.forOneTransfer.resumeHandler trail)
  · cases h; exact hs.idleStep
  · cases h; exact Coherent.atomically (hs.forOneTransfer.runHandler hp)
  · obtain ⟨n, rfl⟩ := eq_takeCommand_of_command hfetch
    exact (hs.takeCommand n).atomicallyExec h
  · obtain ⟨n, rfl⟩ := eq_takeCommand_of_rejected hfetch
    cases h
    exact (hs.takeCommand n).respond st 0 []
  · cases h; exact hs.idleStep

end Sys2Proof
end

section
/-! CERTIFICATES. Which commands write which element (spec/10_state.md R12 to R17). -/

namespace Sys2Proof.Machine

open Sys2Proof

section
variable {i : Instr} {s t : State}

/-- A command that no reset cuts short leaves every element its assignments do not name. -/
theorem exec_frame (hr : .rst ∉ s.inputs) (h : exec i s = .next t) : Frame (mayAssign i) s t := by
  refine leads_exec (frame_runKeeps (mayAssign i) s) (fun hmem => absurd hmem hr)
    (fun st _ => .of_unwritten (unwritten_respond s st 0 [])) (fun _ _ => ?_) h
  refine (sequenceOf_assignsOnly i s).leads (fun f t es ht => ?_) (fun a t ha ht => ht.trans (frame_apply a t ha))
    (.of_unwritten (unwritten_seq s _))
  exact (ht.trans (.of_unwritten (unwritten_inputs t es))).trans (.of_unwritten (unwritten_complete f _))

/-- The unit is idle behind an `OK` response. -/
def AnsweredOk (t : State) : Prop := t.seq = .idle ∧ t.log.getLast? = some (okEvent 0)

/-- The frequency shadow is `f` exactly behind an `OK`, and as in `s` otherwise. -/
def FreqFollowsOk (f : BitVec 32) (s t : State) : Prop :=
  (AnsweredOk t ∧ t.freqShadow = some f) ∨ (¬ AnsweredOk t ∧ t.freqShadow = s.freqShadow)

/-- Inside a command the frequency shadow is still as in `s`. -/
def FreqUntouched (i : Instr) (s t : State) : Prop := (∃ trail, t.seq = .fg i trail) ∧ t.freqShadow = s.freqShadow

theorem not_answeredOk_respond (s : State) {st : Status} (hst : st ≠ .ok) : ¬ AnsweredOk (s.respond st 0 []) := by
  rintro ⟨-, h⟩
  simp [okEvent, hst] at h

theorem freqUntouched_runKeeps (i : Instr) (f : BitVec 32) (s : State) :
    RunKeeps (FreqUntouched i s) (FreqFollowsOk f s) where
  wait t es := by
    rintro ⟨⟨trail, hq⟩, hf⟩
    exact .inr ⟨fun ⟨hidle, _⟩ => by simp [hq] at hidle, hf⟩
  byte t a d b := by
    rintro ⟨⟨trail, hq⟩, hf⟩
    exact ⟨⟨trail ++ [b], by simp [hq, Seq.push]⟩, hf⟩
  error t a d es := by
    rintro ⟨⟨trail, hq⟩, hf⟩
    simp only [State.busFail, hq]
    exact .inr ⟨not_answeredOk_respond _ (by decide), hf⟩
  edge t h := by simpa [FreqUntouched] using h
  command t w bytes h := h
  take t h := h

/-- The last assignments of `SETFREQ` come with its `OK`; before them there is no assignment
(spec/42_rf_config.md R121). -/
theorem seqSetfreq_leads (c : UnitCfg) (f : BitVec 32) (h : FreqUntouched (.setfreq f) s t) :
    (seqSetfreq c f).Leads (FreqUntouched (.setfreq f) s) (FreqFollowsOk f s) t := by
  simp only [seqSetfreq, leads_busWrite]
  refine ⟨h, fun t h => ⟨h, fun t h => ⟨h, fun t h => leads_rmw h fun w t h es => .inl ⟨⟨rfl, ?_⟩, rfl⟩⟩⟩⟩
  simp [Finish.complete, okEvent]

theorem exec_setfreq_freqShadow {f : BitVec 32} (hr : .rst ∉ s.inputs) (h : exec (.setfreq f) s = .next t) :
    FreqFollowsOk f s t :=
  leads_exec (freqUntouched_runKeeps (.setfreq f) f s) (fun hmem => absurd hmem hr)
    (fun _ hst => .inr ⟨not_answeredOk_respond s hst, rfl⟩)
    (fun _ _ => seqSetfreq_leads s.cfg f ⟨⟨[], rfl⟩, rfl⟩) h

end

/-- Settles O53: the frame of the command, and for the frequency shadow where in `SETFREQ` it is written. -/
theorem shadowsWrittenByTheirCommands : Obligations.ShadowsWrittenByTheirCommands := by
  unfold Obligations.ShadowsWrittenByTheirCommands
  intro i s t hr h
  have hframe := exec_frame hr h
  refine ⟨fun hi => hframe.modeShadow ?_ ?_, fun hi => hframe.implicitShadow ?_, fun hi => hframe.cbArmed ?_,
    fun hi => hframe.ustate fun _ => hi, fun hi => hframe.freqShadow hi, ?_⟩
  · simp [mayAssign, hi]
  · simp [mayAssign, hi]
  · simp [mayAssign, hi]
  · simp [mayAssign, hi]
  · rintro f rfl
    simpa only [FreqFollowsOk, AnsweredOk, and_assoc] using exec_setfreq_freqShadow hr h

end Sys2Proof.Machine
end

section
/-! CERTIFICATES. The position held in `u.seq` loses nothing (spec/10_state.md R19, spec/20_memory.md R45): the script that
is left at a position goes on with later inputs as the run would have gone on, and the frame of the sequence keeps what
its script is made from. -/

namespace Sys2Proof.Machine

open Sys2Proof

/-! ## A run takes its inputs from its argument, not from the state -/

theorem settle_inputs (p : Script) (s : State) (es : List Input) :
    (p.settle { s with inputs := es }).2 = { (p.settle s).2 with inputs := es } := by
  induction p generalizing s with
  | assign a p ih =>
    have happly : a.apply { s with inputs := es } = { a.apply s with inputs := es } := by cases a <;> rfl
    simp only [settle_assign, happly, ih]
  | _ => rfl

theorem runScript_inputs (es : List Input) (p : Script) (s : State) (x : List Input) :
    runScript es p { s with inputs := x } = runScript es p s := by
  induction es generalizing p s with
  | nil => rfl
  | cons e es ih =>
    cases hp : p.request with
    | none => simp only [runScript, hp]
    | some ad =>
      rw [runScript_cons hp, runScript_cons hp]
      cases e with
      | bus r =>
        cases r with
        | byte b =>
          have ht : State.transferred { s with inputs := x } ad.1 ad.2 b =
              { s.transferred ad.1 ad.2 b with inputs := x } := rfl
          simp only [ht, settle_inputs, settle_fst, ih]
        | error => rfl
      | rst => rfl
      | dio0Rise =>
        have ht : State.latchEdge { s with inputs := x } = { s.latchEdge with inputs := x } := by
          unfold State.latchEdge
          split <;> rfl
        simp only [ht, ih]
      | command w bytes => exact ih p (s.present w bytes)
      | takeCallback => exact ih p s.takeCallback

/-! ## Going on at a position -/

theorem busFail_seq (s : State) : s.busFail.seq = .idle := by
  unfold State.busFail
  split
  · assumption
  · rfl
  · rfl

/-- A run that ends inside the sequence had a transfer to wait for. -/
theorem waits_of_seq_ne_idle {es : List Input} {p : Script} {s : State} (h : (runScript es p.skip s).seq ≠ .idle) :
    ∃ ad, p.skip.request = some ad := by
  rcases skip_finish_or_waits p with ⟨f, hf⟩ | hp
  · rw [hf, runScript_finish] at h
    exact absurd (complete_seq f _) h
  · exact hp

/-- A run that waits has taken all its inputs and was answered some bytes; with more inputs it goes on from there with the
script that is left behind these bytes. -/
theorem runScript_append {es : List Input} {p : Script} {s : State} (h : (runScript es p.skip s).seq ≠ .idle) :
    ∃ bytes, (runScript es p.skip s).seq = bytes.foldl Seq.push s.seq ∧
      ∀ more, runScript (es ++ more) p.skip s = runScript more (p.residual bytes) (runScript es p.skip s) := by
  induction es generalizing p s with
  | nil =>
    obtain ⟨ad, hp⟩ := waits_of_seq_ne_idle h
    rw [runScript_waits hp]
    exact ⟨[], rfl, fun more => (runScript_inputs more p.skip s []).symm⟩
  | cons e es ih =>
    obtain ⟨⟨a, d⟩, hp⟩ := waits_of_seq_ne_idle h
    have hcons := fun es => runScript_cons (s := s) hp e es
    simp only [List.cons_append, hcons] at h ⊢
    cases e with
    | bus r =>
      cases r with
      | byte b =>
        simp only [settle_fst] at h ⊢
        obtain ⟨bytes, hq, hmore⟩ := ih h
        exact ⟨b :: bytes, by simpa using hq, hmore⟩
      | error => exact absurd (busFail_seq _) h
    | rst => exact absurd (applyReset_seq _) h
    | dio0Rise => simpa using ih h
    | command w bytes => simpa using ih h
    | takeCallback => simpa using ih h

theorem foldl_push_fg (i : Instr) (trail bytes : List Byte) :
    bytes.foldl Seq.push (.fg i trail) = .fg i (trail ++ bytes) := by
  induction bytes generalizing trail with
  | nil => simp
  | cons b bytes ih => simp [Seq.push, ih]

theorem foldl_push_irq (trail bytes : List Byte) : bytes.foldl Seq.push (.irq trail) = .irq (trail ++ bytes) := by
  induction bytes generalizing trail with
  | nil => simp
  | cons b bytes ih => simp [Seq.push, ih]

/-! ## The script of an active sequence -/

/-- A command keeps what its own script is made from. -/
theorem sequenceOf_eq_of_frame {i : Instr} {s t : State} (h : Frame (mayAssign i) s t) :
    sequenceOf i t = sequenceOf i s := by
  refine sequenceOf_congr h.cfg ?_ ?_
  · rintro rfl
    exact h.implicitShadow (by simp [mayAssign, writesImplicitShadow])
  · rintro rfl
    exact h.freqShadow (by simp [mayAssign])

/-- So does the handler. -/
theorem seqHandler_eq_of_unwritten {s t : State} (h : Unwritten s t) :
    seqHandler t.cfg t.implicitShadow = seqHandler s.cfg s.implicitShadow := by
  rw [h.cfg, h.implicitShadow fun _ => id]

/-- The state in which an accepted command makes its first transfer: its leading assignments are carried out. -/
def begun (i : Instr) (s : State) : State := ((sequenceOf i s).settle { s with seq := .fg i [] }).2

section
variable {i : Instr} {s t u : State}

@[simp] theorem begun_seq (i : Instr) (s : State) : (begun i s).seq = .fg i [] := settle_seq _ _

theorem sequenceOf_inputs (i : Instr) (s : State) (es : List Input) :
    sequenceOf i { s with inputs := es } = sequenceOf i s := sequenceOf_congr rfl (fun _ => rfl) fun _ => rfl

theorem begun_inputs (i : Instr) (s : State) (es : List Input) :
    begun i { s with inputs := es } = { begun i s with inputs := es } := by
  unfold begun
  rw [sequenceOf_inputs]
  exact settle_inputs _ { s with seq := .fg i [] } es

theorem begun_frame (i : Instr) (s : State) : Frame (mayAssign i) s (begun i s) :=
  .trans (.of_unwritten (unwritten_seq s _)) ((sequenceOf_assignsOnly i s).frame_settle _)

/-- A command is refused whatever the inputs are, or its script runs on them from the state in which it has begun. -/
theorem exec_refused_or_runs (i : Instr) (s : State) :
    (∃ st, ∀ es, exec i { s with inputs := es } = .next (State.respond { s with inputs := es } st 0 [])) ∨
    ∀ es, exec i { s with inputs := es } = .next (runScript es (sequenceOf i s).skip (begun i s)) := by
  cases hw : i.wf s.cfg with
  | false => exact .inl ⟨.errArg, fun es => by simp [exec_eq, runCommand, hw]⟩
  | true =>
    have hallows : ∀ es, lifecycleAllows i { s with inputs := es } = lifecycleAllows i s := fun _ => rfl
    cases hl : lifecycleAllows i s with
    | false => exact .inl ⟨.errState, fun es => by simp [exec_eq, runCommand, hw, hallows, hl]⟩
    | true =>
      refine .inr fun es => ?_
      have hstart : startScript (sequenceOf i { s with inputs := es }) { s with inputs := es, seq := .fg i [] } =
          runScript es (sequenceOf i { s with inputs := es }).skip (begun i { s with inputs := es }) :=
        startScript_eq _ _
      rw [begun_inputs, runScript_inputs, sequenceOf_inputs] at hstart
      rw [exec_eq, runCommand_runs (by exact hw) ((hallows es).trans hl), sequenceOf_inputs, hstart]

/-- The handler makes no assignment, so it runs from its entry. -/
theorem runHandler_eq (s : State) :
    runHandler s = runScript s.inputs (seqHandler s.cfg s.implicitShadow) s.enterHandler := rfl

/-! ## Parts 1 and 2: a sequence that waited goes on -/

theorem resumeCommand_inputs (i : Instr) (trail : List Byte) (t : State) (es : List Input) :
    resumeCommand i trail { t with inputs := es } = runScript es ((sequenceOf i t).residual trail) t := by
  rw [resumeCommand, resumeScript, sequenceOf_inputs, runScript_inputs]

theorem resumeHandler_inputs (trail : List Byte) (t : State) (es : List Input) :
    resumeHandler trail { t with inputs := es } =
      runScript es ((seqHandler t.cfg t.implicitShadow).residual trail) t := by
  rw [resumeHandler, resumeScript, runScript_inputs]

theorem runHandler_inputs (s : State) (es : List Input) :
    runHandler { s with inputs := es } = runScript es (seqHandler s.cfg s.implicitShadow) s.enterHandler :=
  runScript_inputs es _ s.enterHandler es

theorem resumeCommand_of_exec {trail : List Byte} {more : List Input} (h : exec i s = .next t)
    (hq : t.seq = .fg i trail) :
    exec i { s with inputs := s.inputs ++ more } = .next (resumeCommand i trail { t with inputs := more }) := by
  rcases exec_refused_or_runs i s with ⟨st, href⟩ | hrun
  · obtain rfl := Host.Outcome.next.inj (h.symm.trans (href s.inputs))
    cases hq
  · obtain rfl := Host.Outcome.next.inj (h.symm.trans (hrun s.inputs))
    have hne : (runScript s.inputs (sequenceOf i s).skip (begun i s)).seq ≠ .idle := by simp [hq]
    obtain ⟨bytes, hbytes, happend⟩ := runScript_append hne
    obtain rfl : trail = bytes := by simpa [hq, foldl_push_fg] using hbytes
    have hframe := (begun_frame i s).trans ((sequenceOf_assignsOnly i s).frame_runScript (.inr hne))
    rw [hrun, happend, resumeCommand_inputs, sequenceOf_eq_of_frame hframe]

theorem resumeHandler_of_runHandler {trail : List Byte} {more : List Input} (hq : (runHandler s).seq = .irq trail) :
    runHandler { s with inputs := s.inputs ++ more } = resumeHandler trail { runHandler s with inputs := more } := by
  have hne : (runHandler s).seq ≠ .idle := by simp [hq]
  obtain ⟨bytes, hbytes, happend⟩ := runScript_append (p := seqHandler s.cfg s.implicitShadow) hne
  obtain rfl : trail = bytes := by simpa [foldl_push_irq] using hq.symm.trans hbytes
  have hframe : Unwritten s (runHandler s) := (unwritten_enterHandler s).trans
    ((seqHandler_assignsOnly s.cfg s.implicitShadow).frame_runScript (.inr hne))
  rw [runHandler_inputs, resumeHandler_inputs, seqHandler_eq_of_unwritten hframe]
  exact happend more

/-! ## Parts 3 and 4: steps of one transfer each -/

/-- The assignments of the active sequence. -/
def activeAssigns : Seq → Assign → Prop
  | .idle => fun _ => False
  | .fg i _ => mayAssign i
  | .irq _ => fun _ => False

/-- What is left of an active sequence is settled and assigns what the sequence may. -/
theorem remaining_settled {q : Script} (h : remaining s = some q) :
    q.skip = q ∧ q.AssignsOnly (activeAssigns s.seq) := by
  unfold remaining at h
  cases hq : s.seq with
  | idle => simp [hq] at h
  | fg i trail =>
    simp only [hq, Option.some.injEq] at h
    subst h
    exact ⟨residual_skip _ _, (sequenceOf_assignsOnly i s).residual trail⟩
  | irq trail =>
    simp only [hq, Option.some.injEq] at h
    subst h
    exact ⟨residual_skip _ _, (seqHandler_assignsOnly _ _).residual trail⟩

theorem remaining_fg {i : Instr} {trail : List Byte} (h : s.seq = .fg i trail) :
    remaining s = some ((sequenceOf i s).residual trail) := by simp [remaining, h]

theorem remaining_irq {trail : List Byte} (h : s.seq = .irq trail) :
    remaining s = some ((seqHandler s.cfg s.implicitShadow).residual trail) := by simp [remaining, h]

/-- One more byte answered: what is left is what was left, fed that byte. -/
theorem remaining_of_push {q : Script} {b : Byte} (h : remaining s = some q)
    (hf : Frame (activeAssigns s.seq) s t) (ht : t.seq = s.seq.push b) : remaining t = some (q.feed b).skip := by
  cases hq : s.seq with
  | idle => simp [remaining, hq] at h
  | fg i trail =>
    rw [hq] at hf ht
    rw [remaining_fg hq, Option.some.injEq] at h
    rw [remaining_fg ht, sequenceOf_eq_of_frame hf, residual_append, h]
  | irq trail =>
    rw [hq] at hf ht
    rw [remaining_irq hq, Option.some.injEq] at h
    rw [remaining_irq ht, seqHandler_eq_of_unwritten hf, residual_append, h]

/-- A step of an active sequence runs what is left on the inputs of one transfer. -/
theorem step_of_remaining {q : Script} (h : remaining s = some q) :
    step s = .next ((runScript (untilAnswer s.inputs).1 q s).giveBack (untilAnswer s.inputs).2) := by
  cases hq : s.seq with
  | idle => simp [remaining, hq] at h
  | fg i trail =>
    rw [remaining_fg hq, Option.some.injEq] at h
    subst h
    have hstep : step s = .next (atomically (resumeCommand i trail) s) := by simp only [step, hq]
    rw [hstep, atomically, State.forOneTransfer, resumeCommand_inputs]
  | irq trail =>
    rw [remaining_irq hq, Option.some.injEq] at h
    subst h
    have hstep : step s = .next (atomically (resumeHandler trail) s) := by simp only [step, hq]
    rw [hstep, atomically, State.forOneTransfer, resumeHandler_inputs]

/-- The inputs after the next answer are fewer. -/
theorem length_later_lt {es : List Input} (h : es ≠ []) : (untilAnswer es).2.length < es.length := by
  have hpos : 0 < (untilAnswer es).1.length := by
    cases es with
    | nil => exact absurd rfl h
    | cons e es => cases e <;> simp [untilAnswer]
  have hsum := congrArg List.length (untilAnswer_append es)
  rw [List.length_append] at hsum
  omega

theorem runSteps_succ_of_step (n : Nat) (h : step s = .next t) : runSteps (n + 1) s = runSteps n t := by
  simp only [runSteps, h]

theorem runSteps_succ_congr (n : Nat) (h : step s = step t) : runSteps (n + 1) s = runSteps (n + 1) t := by
  simp only [runSteps, h]

theorem seq_ne_idle_of_remaining {q : Script} (h : remaining s = some q) : s.seq ≠ .idle := by
  intro hq
  simp [remaining, hq] at h

theorem push_ne_idle {q : Seq} (h : q ≠ .idle) (b : Byte) : q.push b ≠ .idle := by
  cases q with
  | idle => exact absurd rfl h
  | fg i trail => nofun
  | irq trail => nofun

/-- A step of an active sequence ends its run, or leaves a sequence with fewer inputs before it and the same end. -/
theorem step_ends_or_goes_on {q : Script} (h : remaining s = some q) :
    step s = .next (runScript s.inputs q s) ∨
    ∃ t r, step s = .next t ∧ remaining t = some r ∧ t.inputs.length < s.inputs.length ∧
      runScript t.inputs r t = runScript s.inputs q s := by
  obtain ⟨hsettled, hassigns⟩ := remaining_settled h
  have hstep := step_of_remaining h
  by_cases hes : s.inputs = []
  · exact .inl (by simpa [hes, untilAnswer, State.giveBack] using hstep)
  rcases skip_finish_or_waits q with ⟨f, hf⟩ | ⟨ad, hp⟩
  · rw [hsettled] at hf
    subst hf
    simp only [runScript_finish, complete_giveBack] at hstep ⊢
    exact .inl (by simpa [State.giveBack] using hstep)
  rw [hsettled] at hp
  rcases runScript_untilAnswer hp s.inputs with heq | ⟨b, t, -, hpush, hrun, hlater⟩
  · exact .inl (hstep.trans (congrArg _ heq.symm))
  have hnext : step s = .next { t with inputs := (untilAnswer s.inputs).2 } := by
    rw [hstep, hrun]
    rfl
  have hbusy : t.seq ≠ .idle := hpush ▸ push_ne_idle (seq_ne_idle_of_remaining h) b
  have hframe := hassigns.frame_runScript (es := (untilAnswer s.inputs).1) (s := s)
  rw [hsettled, hrun] at hframe
  have hframe : Frame (activeAssigns s.seq) s { t with inputs := (untilAnswer s.inputs).2 } :=
    (hframe (.inr hbusy)).trans (.of_unwritten (unwritten_inputs _ _))
  refine .inr ⟨_, _, hnext, remaining_of_push h hframe hpush, length_later_lt hes, ?_⟩
  rw [runScript_inputs, hlater]

/-- Steps of one transfer each bring an active sequence to where one run on all the inputs brings it. -/
theorem runSteps_of_remaining {q : Script} (h : remaining s = some q) :
    ∃ n, 0 < n ∧ runSteps n s = some (runScript s.inputs q s) := by
  induction hlen : s.inputs.length using Nat.strong_induction_on generalizing s q with
  | _ m ih =>
    subst hlen
    rcases step_ends_or_goes_on h with hend | ⟨t, r, hnext, hrem, hlt, hsame⟩
    · exact ⟨1, Nat.one_pos, runSteps_succ_of_step 0 hend⟩
    · obtain ⟨n, -, hn⟩ := ih _ hlt hrem rfl
      exact ⟨n + 1, n.succ_pos, by rw [runSteps_succ_of_step n hnext, hn, hsame]⟩

@[simp] theorem begun_inputs_eq (i : Instr) (s : State) : (begun i s).inputs = s.inputs :=
  settle_keeps (P := fun t => t.inputs = s.inputs) (fun a t ht => by cases a <;> exact ht) _ _ rfl

theorem remaining_begun (i : Instr) (s : State) : remaining (begun i s) = some (sequenceOf i s).skip := by
  rw [remaining_fg (begun_seq i s), sequenceOf_eq_of_frame (begun_frame i s), residual_nil]

/-- A step that accepts a command is a step of the unit in which the command has begun, or it answers the refusal. -/
theorem runSteps_of_accepted (hstep : step s = atomicallyExec (exec i) t) (h : exec i t = .next u) :
    ∃ n, 0 < n ∧ runSteps n s = some u := by
  rw [atomicallyExec_eq, State.forOneTransfer] at hstep
  rcases exec_refused_or_runs i t with ⟨st, href⟩ | hrun
  · obtain rfl := Host.Outcome.next.inj (h.symm.trans (href t.inputs))
    rw [href] at hstep
    refine ⟨1, Nat.one_pos, ?_⟩
    rw [runSteps_succ_of_step 0 hstep]
    simp [runSteps, State.giveBack, State.respond]
  · obtain rfl := Host.Outcome.next.inj (h.symm.trans (hrun t.inputs))
    rw [hrun] at hstep
    obtain ⟨n, hpos, hn⟩ := runSteps_of_remaining (remaining_begun i t)
    have hbegun := step_of_remaining (remaining_begun i t)
    rw [begun_inputs_eq] at hn hbegun
    obtain ⟨n, rfl⟩ := Nat.exists_eq_add_of_lt hpos
    exact ⟨_, hpos, (runSteps_succ_congr _ (hstep.trans hbegun.symm)).trans hn⟩

/-- An idle unit with an edge pending and no reset asserted serves it: its step is the first of the handler. -/
theorem runSteps_of_edge (hidle : s.seq = .idle) (hp : s.irqPending = true) (hr : rstAsserted s = false) :
    ∃ n, 0 < n ∧ runSteps n s = some (runHandler s) := by
  have hrem : remaining s.enterHandler = some (seqHandler s.cfg s.implicitShadow) := rfl
  have hstep : step s = step s.enterHandler := by
    have hs : step s = .next (atomically runHandler s) := by simp [step, hidle, hp, hr]
    rw [hs, step_of_remaining hrem, atomically, State.forOneTransfer, runHandler_inputs, enterHandler_inputs]
  obtain ⟨n, hpos, hn⟩ := runSteps_of_remaining hrem
  obtain ⟨n, rfl⟩ := Nat.exists_eq_add_of_lt hpos
  exact ⟨_, hpos, (runSteps_succ_congr _ hstep).trans hn⟩

end

/-- Settles O51: what is left of a sequence that waits is the script fed the bytes answered so far (parts 1 and 2), and each
step of one transfer keeps it so until the run is over (parts 3 and 4). -/
theorem suspendedCommandResumes : Obligations.SuspendedCommandResumes := by
  unfold Obligations.SuspendedCommandResumes
  refine ⟨fun i s t trail more => resumeCommand_of_exec, fun s trail more => resumeHandler_of_runHandler, ?_,
    fun s => runSteps_of_edge⟩
  intro s t w ws i hready hr hw hd h
  obtain ⟨hidle, hp⟩ : s.seq = .idle ∧ s.irqPending = false := by simpa [State.ready] using hready
  have hfetch : fetchCommand s = .command i (s.takeCommand (dataCount s.cfg.op w)) := by simp [fetchCommand, hw, hd]
  refine runSteps_of_accepted (i := i) (t := s.takeCommand (dataCount s.cfg.op w)) ?_ ?_
  · simp [step, hidle, hp, hr, hfetch]
  · simpa [State.takeCommand, hw] using h

end Sys2Proof.Machine
end

section
/-! SUPPORT. The transfers of a script are reads and writes of registers (spec/20_memory.md R41 to R43), and what one step
adds to the log (R45). -/

namespace Sys2Proof.Machine

open Sys2Proof

/-! ## Every transfer is a read or a write of a register -/

/-- The two bytes of a transfer are those of `BusRead` or of `BusWrite` (spec/20_memory.md R42, R43). -/
def RegisterAccess (c : UnitCfg) (a d : Byte) : Prop :=
  (∃ addr, a = readAddress c addr ∧ d = c.readDummy) ∨ ∃ addr, a = writeAddress c addr

/-- Bit 7 of an address byte is the write flag (spec/20_memory.md R41). -/
theorem RegisterAccess.framed {c : UnitCfg} {a d : Byte} (h : RegisterAccess c a d) (hc : c.legal = true) :
    a.getLsbD 7 = true ∨ d = c.readDummy := by
  rcases h with ⟨addr, -, hd⟩ | ⟨addr, rfl⟩
  · exact .inr hd
  · rw [writeAddress_eq (writeFlag_of_legal hc)]
    exact .inl (by rw [BitVec.getLsbD_append]; rfl)

/-- Every transfer of the script, on every path through it, reads or writes a register. -/
def Script.AccessesRegisters (c : UnitCfg) : Script → Prop
  | .finish _ => True
  | .assign _ p => p.AccessesRegisters c
  | .xfer a d k => RegisterAccess c a d ∧ ∀ b, (k b).AccessesRegisters c
  | .poll a d _ _ k => RegisterAccess c a d ∧ ∀ n b, (k n b).AccessesRegisters c

section
variable {c : UnitCfg} {p : Script}

@[simp] theorem accessesRegisters_finish (f : Finish) : (Script.finish f).AccessesRegisters c := trivial
@[simp] theorem accessesRegisters_assign (a : Assign) :
    (Script.assign a p).AccessesRegisters c ↔ p.AccessesRegisters c := Iff.rfl
@[simp] theorem accessesRegisters_busRead (addr : Addr) (k : Byte → Script) :
    (busRead c addr k).AccessesRegisters c ↔ ∀ b, (k b).AccessesRegisters c :=
  and_iff_right (.inl ⟨addr, rfl, rfl⟩)
@[simp] theorem accessesRegisters_busPoll (addr : Addr) (stop : Nat → Byte → Bool) (k : Nat → Byte → Script) :
    (busPoll c addr stop k).AccessesRegisters c ↔ ∀ n b, (k n b).AccessesRegisters c :=
  and_iff_right (.inl ⟨addr, rfl, rfl⟩)
@[simp] theorem accessesRegisters_busWrite (addr : Addr) (v : Byte) :
    (busWrite c addr v p).AccessesRegisters c ↔ p.AccessesRegisters c :=
  (and_iff_right (.inr ⟨addr, rfl⟩)).trans (forall_const Byte)

@[simp] theorem accessesRegisters_respondOk (result : BitVec 32) : (respondOk result).AccessesRegisters c := trivial
@[simp] theorem accessesRegisters_raise (st : Status) (info : BitVec 32) : (raise st info).AccessesRegisters c := trivial
@[simp] theorem accessesRegisters_ite (b : Prop) [Decidable b] (q : Script) :
    (if b then p else q).AccessesRegisters c ↔ (b → p.AccessesRegisters c) ∧ (¬ b → q.AccessesRegisters c) := by
  split <;> simp_all

@[simp] theorem accessesRegisters_rmw (addr : Addr) (mask val : Byte) (k : Byte → Script) :
    (rmw c addr mask val k).AccessesRegisters c ↔ ∀ old, (k (maskedUpdate old mask val)).AccessesRegisters c := by
  simp [rmw]

@[simp] theorem accessesRegisters_setMode (sel : BitVec 3) :
    (setMode c sel p).AccessesRegisters c ↔ p.AccessesRegisters c := by
  simp [setMode]

@[simp] theorem accessesRegisters_setLongRange (en : Bool) :
    (setLongRange c en p).AccessesRegisters c ↔ p.AccessesRegisters c := by
  simp [setLongRange]

@[simp] theorem accessesRegisters_setImplicit (b : Bool) :
    (setImplicit c b p).AccessesRegisters c ↔ p.AccessesRegisters c := by
  simp [setImplicit, rmwField]

theorem accessesRegisters_headerForSize (size : Byte) (h : p.AccessesRegisters c) :
    (headerForSize c size p).AccessesRegisters c := by
  simp [headerForSize, h]

theorem accessesRegisters_writeFifo (bytes : List Byte) (h : p.AccessesRegisters c) :
    (writeFifo c bytes p).AccessesRegisters c := by
  induction bytes with
  | nil => exact h
  | cons b bytes ih => exact (accessesRegisters_busWrite _ b).2 ih

theorem accessesRegisters_readFifo {k : List Byte → Script} (h : ∀ bytes, (k bytes).AccessesRegisters c) (n : Nat)
    (got : List Byte) : (readFifo c k n got).AccessesRegisters c := by
  induction n generalizing got with
  | zero => exact h got
  | succ n ih => exact (accessesRegisters_busRead _ _).2 fun b => ih _

theorem accessesRegisters_extractPayload (implicit : Bool) {k : List Byte → Script}
    (h : ∀ bytes, (k bytes).AccessesRegisters c) : (extractPayload c implicit k).AccessesRegisters c := by
  simp only [extractPayload, accessesRegisters_busRead, accessesRegisters_busWrite]
  exact fun _ len => accessesRegisters_readFifo h len.toNat []

theorem Script.AccessesRegisters.request {a d : Byte} (h : p.AccessesRegisters c) (hp : p.request = some (a, d)) :
    RegisterAccess c a d := by
  induction p with
  | finish f => cases hp
  | assign _ p ih => exact ih h hp
  | xfer a' d' k => cases hp; exact h.1
  | poll a' d' stop n k => cases hp; exact h.1

theorem Script.AccessesRegisters.skip (h : p.AccessesRegisters c) : p.skip.AccessesRegisters c := by
  induction p with
  | assign a p ih => exact ih h
  | _ => exact h

theorem Script.AccessesRegisters.feed (h : p.AccessesRegisters c) (b : Byte) : (p.feed b).AccessesRegisters c := by
  cases p with
  | finish f => exact h
  | assign a p => exact h
  | xfer a d k => exact h.2 b
  | poll a d stop n k =>
    rw [feed_poll]
    split
    · exact h.2 _ b
    · exact h

theorem Script.AccessesRegisters.residual (h : p.AccessesRegisters c) (trail : List Byte) :
    (p.residual trail).AccessesRegisters c := by
  induction trail generalizing p with
  | nil => exact h.skip
  | cons b trail ih => exact ih (h.skip.feed b)

end

/-- The transfers of each command are register accesses. -/
theorem sequenceOf_accessesRegisters (i : Instr) (s : State) : (sequenceOf i s).AccessesRegisters s.cfg := by
  cases i with
  | init => simp [sequenceOf, seqInit]
  | rdreg addr => simp [sequenceOf, seqRdreg]
  | wrreg addr value => simp [sequenceOf, seqWrreg]
  | setmode sel => simp [sequenceOf, seqSetmode]
  | setlr en => simp [sequenceOf, seqSetlr]
  | setfreq f => simp [sequenceOf, seqSetfreq]
  | settxpwr level boost => simp [sequenceOf, seqSettxpwr]
  | setbw b => simp [sequenceOf, seqSetbw, rmwField]
  | setsf sf => simp [sequenceOf, seqSetsf, rmwField]
  | setldr ldr => simp [sequenceOf, seqSetldr, writeLdr, rmwField]
  | setcr den => simp [sequenceOf, seqSetcr, rmwField]
  | setpreamble len => simp [sequenceOf, seqSetpreamble]
  | setsync sw => simp [sequenceOf, seqSetsync]
  | setcrc en => simp [sequenceOf, seqSetcrc, rmwField]
  | setimpl en => simp [sequenceOf, seqSetimpl]
  | beginpkt => simp [sequenceOf, seqBeginpkt]
  | write data =>
    simp only [sequenceOf, seqWrite, accessesRegisters_busRead]
    exact fun cur => accessesRegisters_writeFifo _ (by simp)
  | endpkt => simp [sequenceOf, seqEndpkt, afterPoll]
  | receive size => exact accessesRegisters_headerForSize size (by simp)
  | rxpoll size => exact accessesRegisters_headerForSize size (by simp)
  | rdpayload => exact accessesRegisters_extractPayload _ fun _ => accessesRegisters_finish _
  | pktrssi => cases hf : s.freqShadow <;> simp [sequenceOf, seqPktrssi, hf]
  | pktsnr => simp [sequenceOf, seqPktsnr]
  | onrecv en => simp [sequenceOf, seqOnrecv]

/-- So are those of the handler. -/
theorem seqHandler_accessesRegisters (c : UnitCfg) (implicit : Bool) : (seqHandler c implicit).AccessesRegisters c := by
  simp only [seqHandler, accessesRegisters_busRead, accessesRegisters_busWrite, accessesRegisters_ite,
    accessesRegisters_finish]
  exact fun v => ⟨fun _ => accessesRegisters_extractPayload _ fun _ => accessesRegisters_finish _, fun _ => trivial⟩

/-- So is what is left of an active sequence. -/
theorem remaining_accessesRegisters {s : State} {q : Script} (h : remaining s = some q) :
    q.AccessesRegisters s.cfg := by
  cases hq : s.seq with
  | idle => exact absurd hq (seq_ne_idle_of_remaining h)
  | fg i trail =>
    obtain rfl := Option.some.inj ((remaining_fg hq).symm.trans h)
    exact (sequenceOf_accessesRegisters i s).residual trail
  | irq trail =>
    obtain rfl := Option.some.inj ((remaining_irq hq).symm.trans h)
    exact (seqHandler_accessesRegisters _ _).residual trail

/-! ## The growth of the log -/

/-- From `s` to `t` the parameters stay and the log gains at most `n` transfers, each framed if the parameters are
legal. -/
structure LogGrows (n : Nat) (s t : State) : Prop where
  cfg : t.cfg = s.cfg
  log : ∃ new, t.log = s.log ++ new ∧ (new.filter isTransfer).length ≤ n ∧
    (s.cfg.legal = true → ∀ e ∈ new, Framed s.cfg e)

theorem framed_of_not_transfer {c : UnitCfg} {e : Event} (h : isTransfer e = false) : Framed c e := by
  cases e with
  | xfer a d r => cases h
  | abandoned a d => cases h
  | _ => trivial

section
variable {m n : Nat} {s t u : State} {e : Event} {p q : Script}

theorem LogGrows.trans (h : LogGrows m s t) (h' : LogGrows n t u) : LogGrows (m + n) s u := by
  obtain ⟨hcfg, new, hlog, hcount, hframed⟩ := h
  obtain ⟨hcfg', new', hlog', hcount', hframed'⟩ := h'
  rw [hcfg] at hframed'
  refine ⟨hcfg'.trans hcfg, new ++ new', by rw [hlog', hlog, List.append_assoc], ?_, fun hc e he => ?_⟩
  · simpa using Nat.add_le_add hcount hcount'
  · exact (List.mem_append.1 he).elim (hframed hc e) (hframed' hc e)

theorem LogGrows.of_quiet (h : LogGrows 0 s t) : LogGrows n s t := by
  obtain ⟨hcfg, new, hlog, hcount, hframed⟩ := h
  exact ⟨hcfg, new, hlog, hcount.trans (Nat.zero_le n), hframed⟩

/-- Where the first part makes no transfer. -/
theorem LogGrows.quietly_then (h : LogGrows 0 s t) (h' : LogGrows n t u) : LogGrows n s u := Nat.zero_add n ▸ h.trans h'

/-- Where the second part makes no transfer. -/
theorem LogGrows.then_quietly (h : LogGrows n s t) (h' : LogGrows 0 t u) : LogGrows n s u := h.trans h'

theorem LogGrows.of_same (hcfg : t.cfg = s.cfg) (hlog : t.log = s.log) : LogGrows 0 s t :=
  ⟨hcfg, [], by simpa using hlog, Nat.le_refl 0, fun _ => by simp⟩

/-- An event that is no transfer. -/
theorem LogGrows.of_event (he : isTransfer e = false) (hcfg : t.cfg = s.cfg) (hlog : t.log = s.log ++ [e]) :
    LogGrows 0 s t :=
  ⟨hcfg, [e], hlog, by simp [he], fun _ => by simpa using framed_of_not_transfer he⟩

/-- One event that may be a transfer. -/
theorem LogGrows.of_transfer (he : s.cfg.legal = true → Framed s.cfg e) (hcfg : t.cfg = s.cfg)
    (hlog : t.log = s.log ++ [e]) : LogGrows 1 s t :=
  ⟨hcfg, [e], hlog, List.length_filter_le _ _, by simpa using he⟩

theorem logGrows_inputs (s : State) (es : List Input) : LogGrows 0 s { s with inputs := es } := .of_same rfl rfl
theorem logGrows_seq (s : State) (q : Seq) : LogGrows 0 s { s with seq := q } := .of_same rfl rfl
theorem logGrows_present (s : State) (w : CmdWord) (bytes : List Byte) : LogGrows 0 s (s.present w bytes) :=
  .of_same rfl rfl
theorem logGrows_takeCallback (s : State) : LogGrows 0 s s.takeCallback := .of_same rfl rfl
theorem logGrows_takeCommand (s : State) (k : Nat) : LogGrows 0 s (s.takeCommand k) := .of_same rfl rfl
theorem logGrows_enterHandler (s : State) : LogGrows 0 s s.enterHandler := .of_same rfl rfl
theorem logGrows_giveBack (s : State) (later : List Input) : LogGrows 0 s (s.giveBack later) := .of_same rfl rfl
theorem logGrows_latchEdge (s : State) : LogGrows 0 s s.latchEdge := .of_same (latchEdge_cfg s) (latchEdge_log s)

theorem logGrows_apply (a : Assign) (s : State) : LogGrows 0 s (a.apply s) := by
  cases a with
  | arm => exact .of_event (e := .arm) rfl rfl rfl
  | disarm => exact .of_event (e := .disarm) rfl rfl rfl
  | _ => exact .of_same rfl rfl

theorem logGrows_settle (p : Script) (s : State) : LogGrows 0 s (p.settle s).2 :=
  settle_keeps (P := LogGrows 0 s) (fun a t h => h.then_quietly (logGrows_apply a t)) p s (.of_same rfl rfl)

theorem logGrows_respond (s : State) (st : Status) (r : BitVec 32) (data : List Byte) :
    LogGrows 0 s (s.respond st r data) := .of_event (e := .response st r data) rfl rfl rfl

theorem logGrows_emitCallback (s : State) (e : CallbackEvent) : LogGrows 0 s (s.emitCallback e) :=
  .of_event (e := .callback e) rfl rfl rfl

theorem logGrows_applyReset (s : State) : LogGrows 0 s s.applyReset := .of_event (e := .disarm) rfl rfl rfl

theorem logGrows_complete (f : Finish) (s : State) : LogGrows 0 s (f.complete s) := by
  cases f with
  | respond st r data => exact logGrows_respond s st r data
  | callback bytes => exact logGrows_emitCallback s _
  | silent => exact .of_same rfl rfl

theorem logGrows_close (p : Script) (s : State) : LogGrows 0 s (p.close s) := by
  cases p with
  | finish f => exact logGrows_complete f s
  | _ => exact .of_same rfl rfl

theorem logGrows_busFail (s : State) : LogGrows 0 s s.busFail := by
  unfold State.busFail
  cases s.seq with
  | idle => exact .of_same rfl rfl
  | fg i trail => exact logGrows_respond s _ _ _
  | irq trail => exact logGrows_emitCallback s _

/-- With no input left the script ends or waits, without a transfer. -/
theorem logGrows_runScript_nil (p : Script) (s : State) : LogGrows 0 s (runScript [] p s) :=
  (logGrows_inputs s []).then_quietly (logGrows_close p _)

/-- On the inputs up to the next answer a script makes at most one transfer: the run stops behind that answer, or at a
reset before it. -/
theorem logGrows_runScript (hp : p.AccessesRegisters s.cfg) (es : List Input) :
    LogGrows 1 s (runScript (untilAnswer es).1 p s) := by
  cases hreq : p.request with
  | none =>
    have hend : runScript (untilAnswer es).1 p s = p.close { s with inputs := (untilAnswer es).1 } := by
      cases (untilAnswer es).1 <;> simp only [runScript, hreq]
    rw [hend]
    exact ((logGrows_inputs s _).then_quietly (logGrows_close p _)).of_quiet
  | some ad =>
    obtain ⟨a, d⟩ := ad
    have hframed : s.cfg.legal = true → a.getLsbD 7 = true ∨ d = s.cfg.readDummy := (hp.request hreq).framed
    induction es generalizing s with
    | nil => exact (logGrows_runScript_nil p s).of_quiet
    | cons e es ih =>
      have goOn : ∀ {t : State}, LogGrows 0 s t → LogGrows 1 s (runScript (untilAnswer es).1 p t) :=
        fun h => h.quietly_then (ih (h.cfg ▸ hp) (h.cfg ▸ hframed))
      cases e with
      | bus r =>
        simp only [untilAnswer, runScript_cons hreq]
        cases r with
        | byte b =>
          have hmade : LogGrows 1 s (s.transferred a d b) := .of_transfer (e := .xfer a d (.byte b)) hframed rfl rfl
          exact (hmade.then_quietly (logGrows_settle _ _)).then_quietly (logGrows_runScript_nil _ _)
        | error =>
          have hfailed : LogGrows 1 s { s with inputs := [], log := s.log ++ [.xfer a d .error] } :=
            .of_transfer (e := .xfer a d .error) hframed rfl rfl
          exact hfailed.then_quietly (logGrows_busFail _)
      | rst =>
        simp only [untilAnswer, runScript_cons hreq]
        have hleft : LogGrows 1 s { s with inputs := (untilAnswer es).1, log := s.log ++ [.abandoned a d] } :=
          .of_transfer (e := .abandoned a d) hframed rfl rfl
        exact hleft.then_quietly (logGrows_applyReset _)
      | dio0Rise =>
        simp only [untilAnswer, runScript_cons hreq]
        exact goOn (logGrows_latchEdge s)
      | command w bytes =>
        simp only [untilAnswer, runScript_cons hreq]
        exact goOn (logGrows_present s w bytes)
      | takeCallback =>
        simp only [untilAnswer, runScript_cons hreq]
        exact goOn (logGrows_takeCallback s)

/-- A step of an active sequence. -/
theorem logGrows_of_remaining (h : remaining s = some q) (hstep : step s = .next t) : LogGrows 1 s t := by
  obtain rfl := Host.Outcome.next.inj ((step_of_remaining h).symm.trans hstep)
  exact (logGrows_runScript (remaining_accessesRegisters h) _).then_quietly (logGrows_giveBack _ _)

/-- The first step of the handler. -/
theorem logGrows_atomically_runHandler (s : State) : LogGrows 1 s (atomically runHandler s) := by
  rw [atomically, State.forOneTransfer, runHandler_inputs]
  have hrun := logGrows_runScript (s := s.enterHandler) (seqHandler_accessesRegisters s.cfg s.implicitShadow) s.inputs
  exact ((logGrows_enterHandler s).quietly_then hrun).then_quietly (logGrows_giveBack _ _)

/-- The step that runs an accepted command, or refuses it. -/
theorem logGrows_atomicallyExec {i : Instr} (h : atomicallyExec (exec i) s = .next t) : LogGrows 1 s t := by
  rw [atomicallyExec_eq, State.forOneTransfer] at h
  rcases exec_refused_or_runs i s with ⟨st, href⟩ | hrun
  · rw [href] at h
    obtain rfl := Host.Outcome.next.inj h
    exact (((logGrows_inputs s _).then_quietly (logGrows_respond _ st 0 [])).then_quietly (logGrows_giveBack _ _)).of_quiet
  · rw [hrun] at h
    obtain rfl := Host.Outcome.next.inj h
    have hbegun : LogGrows 0 s (begun i s) := (logGrows_seq s _).then_quietly (logGrows_settle _ _)
    have haccess : (sequenceOf i s).skip.AccessesRegisters (begun i s).cfg :=
      hbegun.cfg ▸ (sequenceOf_accessesRegisters i s).skip
    exact (hbegun.quietly_then (logGrows_runScript haccess _)).then_quietly (logGrows_giveBack _ _)

theorem logGrows_absorb (e : Input) (s : State) : LogGrows 0 s (absorb e s) := by
  cases e with
  | dio0Rise => exact logGrows_latchEdge s
  | rst => exact logGrows_applyReset s
  | _ => exact .of_same rfl rfl

/-- A step of the outside world makes no transfer. -/
theorem logGrows_idleStep (s : State) : LogGrows 0 s (idleStep s) := by
  unfold idleStep
  split
  · exact .of_same rfl rfl
  · exact (logGrows_inputs s _).then_quietly (logGrows_absorb _ _)

/-- Every step, by what it runs. -/
theorem logGrows_step (h : step s = .next t) : LogGrows 1 s t := by
  have hidle : LogGrows 1 s (idleStep s) := (logGrows_idleStep s).of_quiet
  rcases step_cases s with ⟨i, trail, hq, -⟩ | ⟨trail, hq, -⟩ | ⟨-, -, he⟩ | ⟨-, -, -, he⟩ |
    ⟨i, u, -, -, -, hfetch, he⟩ | ⟨st, u, -, -, -, hfetch, he⟩ | ⟨-, -, -, -, he⟩
  · exact logGrows_of_remaining (remaining_fg hq) h
  · exact logGrows_of_remaining (remaining_irq hq) h
  · cases he.symm.trans h; exact hidle
  · cases he.symm.trans h; exact logGrows_atomically_runHandler s
  · obtain ⟨k, rfl⟩ := eq_takeCommand_of_command hfetch
    exact (logGrows_takeCommand s k).quietly_then (logGrows_atomicallyExec (he.symm.trans h))
  · obtain ⟨k, rfl⟩ := eq_takeCommand_of_rejected hfetch
    cases he.symm.trans h
    exact ((logGrows_takeCommand s k).then_quietly (logGrows_respond _ st 0 [])).of_quiet
  · cases he.symm.trans h; exact hidle

end

end Sys2Proof.Machine
end

section
/-! CERTIFICATES. What a step adds to the log (spec/20_memory.md R41 to R45, R57), and a transfer that fails (R44). -/

namespace Sys2Proof.Machine

open Sys2Proof

/-- Settles O48: what a step adds to the log, by the run of one transfer that it makes. -/
theorem transfersAreFramedAndKept : Obligations.TransfersAreFramedAndKept := by
  unfold Obligations.TransfersAreFramedAndKept
  intro s t h
  obtain ⟨hcfg, hlog⟩ := logGrows_step h
  exact ⟨hcfg, hlog⟩

/-- A unit that has issued a transfer is inside a sequence that waits for it. -/
theorem busRequest_eq_some {s : State} {ad : Byte × Byte} :
    busRequest s = some ad ↔ ∃ q, remaining s = some q ∧ q.request = some ad := by
  unfold busRequest
  cases remaining s <;> simp

/-- A step that takes a `BusError` is `State.busFail` behind the failed transfer. -/
theorem step_of_busError {s : State} {a d : Byte} {rest : List Input} (hreq : busRequest s = some (a, d))
    (hin : s.inputs = .bus .error :: rest) :
    step s = .next (State.busFail { s with inputs := rest, log := s.log ++ [.xfer a d .error] }) := by
  obtain ⟨q, hrem, hq⟩ := busRequest_eq_some.1 hreq
  rw [step_of_remaining hrem, hin]
  simp only [untilAnswer, runScript_cons hq, busFail_giveBack]
  rfl

/-- Settles O42: what `State.busFail` does to a command, and what it does to the handler. -/
theorem busErrorEndsSequence : Obligations.BusErrorEndsSequence := by
  unfold Obligations.BusErrorEndsSequence
  intro s a d rest hreq hin
  rw [step_of_busError hreq hin]
  refine ⟨fun i trail hseq => ?_, fun trail hseq => ?_⟩
  · simp [State.busFail, hseq, State.respond, afterEvents]
  · simp [State.busFail, hseq, State.emitCallback, afterEvents]

end Sys2Proof.Machine
end

section
/-! CERTIFICATES. The byte lists that a log gives of the chip are in canonical form (spec/20_memory.md R47, R49). -/

namespace Sys2Proof.Machine

/-- Both byte lists of the view are in canonical form. -/
structure ChipView.Canonical (v : ChipView) : Prop where
  stored : v.stored.wf = true
  fifo : v.fifo.wf = true

section
variable {v : ChipView}

theorem canonical_unknown : ChipView.unknown.Canonical := ⟨rfl, rfl⟩

theorem canonical_forget (v : ChipView) : v.forget.Canonical := ⟨rfl, rfl⟩

theorem ChipView.Canonical.ite (b : Prop) [Decidable b] {w : ChipView} (h : v.Canonical) (h' : w.Canonical) :
    (if b then v else w).Canonical := by
  split
  · exact h
  · exact h'

theorem Memory.wf_ite_nil (b : Prop) [Decidable b] {mem : Memory} (h : mem.wf = true) :
    (if b then mem else []).wf = true := by
  split
  · exact h
  · rfl

/-- A write of the operating mode forgets, keeps, or empties the FIFO bytes. -/
theorem ChipView.Canonical.modeWritten (h : v.Canonical) (c : UnitCfg) (w : Byte) : (v.modeWritten c w).Canonical := by
  have hkept := ChipView.Canonical.ite
    ((entersSleep c v.opMode w || mayChangeLongRange c v.opMode w) = true) (canonical_forget v) h
  exact ⟨hkept.stored, Memory.wf_ite_nil _ hkept.fifo⟩

/-- A write adds one byte to one of the lists, or none. -/
theorem ChipView.Canonical.written (h : v.Canonical) (c : UnitCfg) (addr : Addr) (d : Byte) :
    (v.written c addr d).Canonical := by
  unfold ChipView.written
  split
  · split
    · exact ⟨h.stored, rfl⟩
    · exact ⟨h.stored, Memory.wf_ite_nil _ (Memory.wf_write h.fifo _ _)⟩
  refine .ite _ ⟨h.stored, h.fifo⟩ <| .ite _ ⟨h.stored, h.fifo⟩ <| .ite _ (h.modeWritten c d) <| .ite _ ?_ h
  exact ⟨Memory.wf_write h.stored _ _, h.fifo⟩

/-- Reading the flags says nothing of stored bytes. -/
theorem flagsRead_lists (c : UnitCfg) (v : ChipView) (r : Byte) :
    (v.flagsRead c r).stored = v.stored ∧ (v.flagsRead c r).fifo = v.fifo := by
  unfold ChipView.flagsRead
  split
  · split <;> exact ⟨rfl, rfl⟩
  · split <;> exact ⟨rfl, rfl⟩

/-- A read of the operating mode forgets, keeps, or empties the FIFO bytes. -/
theorem ChipView.Canonical.modeRead (h : v.Canonical) (c : UnitCfg) (r : Byte) : (v.modeRead c r).Canonical := by
  have hknown := ChipView.Canonical.ite (showsLoss c v.opMode r = true) (canonical_forget v) h
  have hfifo := Memory.wf_ite_nil (keepsFifo c (some r) = true) hknown.fifo
  simp only [ChipView.modeRead]
  refine .ite _ ⟨hknown.stored, hfifo⟩ ?_
  split <;> exact ⟨hknown.stored, hfifo⟩

theorem ChipView.Canonical.answered (h : v.Canonical) (c : UnitCfg) (addr : Addr) (r : Byte) :
    (v.answered c addr r).Canonical := by
  obtain ⟨hstored, hfifo⟩ := flagsRead_lists c v r
  refine .ite _ ⟨h.stored, h.fifo⟩ <| .ite _ ⟨?_, ?_⟩ <| .ite _ (h.modeRead c r) h
  · rw [hstored]; exact h.stored
  · rw [hfifo]; exact h.fifo

/-- A transfer that failed or was abandoned takes bytes out of the lists. -/
theorem ChipView.Canonical.lost (h : v.Canonical) (c : UnitCfg) (addr : Addr) (write : Bool) (d : Byte) :
    (v.lost c addr write d).Canonical := by
  refine .ite _ ⟨h.stored, rfl⟩ <| .ite _ ?_ h
  refine .ite _ ⟨h.stored, h.fifo⟩ <| .ite _ ⟨h.stored, h.fifo⟩ <| .ite _ ?_ ?_
  · exact ⟨(h.modeWritten c d).stored, rfl⟩
  · exact ⟨Memory.wf_erase h.stored _, h.fifo⟩

theorem ChipView.Canonical.observe (h : v.Canonical) (c : UnitCfg) (e : Event) : (v.observe c e).Canonical := by
  cases e with
  | xfer a d r =>
    cases r with
    | byte b => exact .ite _ (h.written c _ d) (h.answered c _ b)
    | error => exact h.lost c _ _ d
  | abandoned a d => exact h.lost c _ _ d
  | _ => exact h

theorem ChipView.Canonical.foldl (h : v.Canonical) (c : UnitCfg) (log : List Event) :
    (log.foldl (ChipView.observe c) v).Canonical := by
  induction log generalizing v with
  | nil => exact h
  | cons e log ih => exact ih (h.observe c e)

end

/-- Settles O56, by induction on the log: every event keeps both lists in canonical form. -/
theorem chipViewKeepsCanonicalForm : Obligations.ChipViewKeepsCanonicalForm := by
  unfold Obligations.ChipViewKeepsCanonicalForm
  intro c log
  obtain ⟨hstored, hfifo⟩ := canonical_unknown.foldl c log
  exact ⟨hstored, hfifo⟩

end Sys2Proof.Machine
end

section
/-! SUPPORT. The operand fields of a command word (spec/30_encoding.md R73, R78): a field that is placed is read back, a
word is its fields where its reserved bits are zero, and what the decoder does with either. -/

namespace Sys2Proof

/-! ## Fields of `arg` -/

section
variable {arg : BitVec 32} {a b w : Nat}

theorem extractLsb'_setWidth_self (hw : w ≤ 32) (v : BitVec w) : (v.setWidth 32).extractLsb' 0 w = v := by
  ext j hj
  simp [show j < 32 by omega, BitVec.getLsbD_eq_getElem hj]

/-- Where every bit above a field is zero, `arg` is the field. -/
theorem setWidth_extractLsb'_self (h : ∀ j, w ≤ j → arg.getLsbD j = false) :
    (arg.extractLsb' 0 w).setWidth 32 = arg := by
  have hlt : arg.toNat < 2 ^ w := Nat.lt_pow_two_of_testBit _ h
  apply BitVec.eq_of_toNat_eq
  simp [Nat.mod_eq_of_lt hlt, arg.isLt]

theorem eq_zero_of_getLsbD (h : ∀ j, 0 ≤ j → arg.getLsbD j = false) : 0 = arg :=
  BitVec.eq_of_getLsbD_eq fun j _ => by simp [h j]

theorem ofBool_getLsbD (arg : BitVec 32) (n : Nat) : BitVec.ofBool (arg.getLsbD n) = arg.extractLsb' n 1 := by
  ext j hj
  obtain rfl : j = 0 := by omega
  simp

theorem getLsbD_setWidth_ofBool (b : Bool) : ((BitVec.ofBool b).setWidth 32).getLsbD 0 = b := by
  cases b <;> rfl

/-- Two fields side by side, the upper one from bit 8. -/
def twoFields (hi : BitVec a) (lo : BitVec b) : BitVec 32 := (hi.setWidth 32 <<< 8) ||| lo.setWidth 32

theorem getLsbD_twoFields (hi : BitVec a) (lo : BitVec b) (j : Nat) :
    (twoFields hi lo).getLsbD j =
      (decide (j < 32) && (decide (8 ≤ j) && hi.getLsbD (j - 8) || lo.getLsbD j)) := by
  simp only [twoFields, BitVec.getLsbD_or, BitVec.getLsbD_shiftLeft, BitVec.getLsbD_setWidth]
  grind

theorem extractLsb'_twoFields_low (hb : b ≤ 8) (hi : BitVec a) (lo : BitVec b) :
    (twoFields hi lo).extractLsb' 0 b = lo := by
  apply BitVec.eq_of_getLsbD_eq
  intro j hj
  simp only [BitVec.getLsbD_extractLsb', getLsbD_twoFields]
  grind

theorem extractLsb'_twoFields_high (ha : a + 8 ≤ 32) (hb : b ≤ 8) (hi : BitVec a) (lo : BitVec b) :
    (twoFields hi lo).extractLsb' 8 a = hi := by
  apply BitVec.eq_of_getLsbD_eq
  intro j hj
  have hlo : lo.getLsbD (8 + j) = false := BitVec.getLsbD_of_ge _ _ (by omega)
  simp only [BitVec.getLsbD_extractLsb', getLsbD_twoFields]
  grind

theorem getLsbD_twoFields_ofBool (hi : Bool) (lo : Byte) : (twoFields (BitVec.ofBool hi) lo).getLsbD 8 = hi := by
  rw [getLsbD_twoFields]
  simp

/-- Where every bit outside two fields is zero, `arg` is the two fields. -/
theorem twoFields_extractLsb' (hhigh : ∀ j, a + 8 ≤ j → arg.getLsbD j = false)
    (hgap : ∀ j, b ≤ j → j < 8 → arg.getLsbD j = false) :
    twoFields (arg.extractLsb' 8 a) (arg.extractLsb' 0 b) = arg := by
  apply BitVec.eq_of_getLsbD_eq
  intro j hj
  have h := hhigh j
  have h' := hgap j
  simp only [getLsbD_twoFields, BitVec.getLsbD_extractLsb']
  grind

end

/-! ## Reserved bits -/

/-- The reserved bits of a command as a mask (spec/30_encoding.md R73, R78). -/
def reservedMask (k : Mnemonic) : BitVec 32 :=
  (BitVec.allOnes 32 <<< operandBits k) ||| (if k = .wrreg then BitVec.twoPow 32 7 else 0)

theorem getLsbD_reservedMask (k : Mnemonic) (j : Nat) :
    (reservedMask k).getLsbD j = true ↔ reservedBit k j := by
  by_cases hk : k = .wrreg
  · simp only [reservedMask, reservedBit, hk, if_true, BitVec.getLsbD_or, BitVec.getLsbD_shiftLeft,
      BitVec.getLsbD_allOnes, BitVec.getLsbD_twoPow]
    grind
  · simp only [reservedMask, reservedBit, hk, if_false, BitVec.getLsbD_or, BitVec.getLsbD_shiftLeft,
      BitVec.getLsbD_allOnes]
    grind

/-- Every reserved bit of the command is zero. -/
def ReservedZero (k : Mnemonic) (arg : BitVec 32) : Prop := ∀ j, reservedBit k j → arg.getLsbD j = false

theorem and_reservedMask_eq_zero {k : Mnemonic} {arg : BitVec 32} :
    arg &&& reservedMask k = 0 ↔ ReservedZero k arg := by
  constructor
  · intro h j hj
    have hand := congrArg (·.getLsbD j) h
    simpa [(getLsbD_reservedMask k j).2 hj] using hand
  · intro h
    apply BitVec.eq_of_getLsbD_eq
    intro j _
    have hmask := getLsbD_reservedMask k j
    have hzero := h j
    simp only [BitVec.getLsbD_and]
    grind

theorem ReservedZero.above {k : Mnemonic} {arg : BitVec 32} (h : ReservedZero k arg) (j : Nat)
    (hj : operandBits k ≤ j) : arg.getLsbD j = false := by
  by_cases hlt : j < 32
  · exact h j ⟨hlt, .inl hj⟩
  · exact BitVec.getLsbD_of_ge _ _ (by omega)

theorem reserved_eq_ok {arg mask : BitVec 32} {i i' : Instr} :
    reserved arg mask i = .ok i' ↔ arg &&& mask = 0 ∧ i = i' := by
  unfold reserved
  split <;> simp_all

/-! ## Decoding the operands -/

/-- How many data bytes the operand field of a command counts: `dataCount` with the opcode found. -/
def dataLength (k : Mnemonic) (arg : BitVec 32) : Nat := if k = .write then (arg.extractLsb' 0 16).toNat else 0

theorem dataCount_of_find {o : Opcodes} {w : CmdWord} {k : Mnemonic} (h : o.find (opField w) = some k) :
    dataCount o w = dataLength k (argField w) := by
  simp [dataCount, dataLength, h]

/-- The decoder looks for the data bytes first, then at the reserved bits. -/
theorem decodeOperands_cases (k : Mnemonic) (arg : BitVec 32) (stream : List Byte) :
    ∃ i, decodeOperands k arg stream =
      if stream.length < dataLength k arg then .dataMissing else reserved arg (reservedMask k) i := by
  cases k with
  | setfreq => exact ⟨.setfreq arg, by simp [decodeOperands, dataLength, reserved, reservedMask, operandBits]⟩
  | setbw => exact ⟨.setbw arg, by simp [decodeOperands, dataLength, reserved, reservedMask, operandBits]⟩
  | _ => exact ⟨_, rfl⟩

/-- A word that decodes has its data bytes on the stream and its reserved bits zero. -/
theorem of_decodeOperands_ok {k : Mnemonic} {arg : BitVec 32} {stream : List Byte} {i : Instr}
    (h : decodeOperands k arg stream = .ok i) : dataLength k arg ≤ stream.length ∧ ReservedZero k arg := by
  obtain ⟨i', heq⟩ := decodeOperands_cases k arg stream
  rw [heq] at h
  split at h
  · cases h
  · exact ⟨by omega, and_reservedMask_eq_zero.1 (reserved_eq_ok.1 h).1⟩

theorem write_of_decodeOperands_ok {arg : BitVec 32} {stream : List Byte} {i : Instr}
    (h : decodeOperands .write arg stream = .ok i) : i = .write (stream.take (dataLength .write arg)) := by
  have hpresent := Nat.not_lt.2 (of_decodeOperands_ok h).1
  exact (reserved_eq_ok.1 ((if_neg hpresent).symm.trans h)).2.symm

/-! ## From a word to its command and back -/

/-- No bit of the operand field of a word that decodes is dropped: the operands of the command are all of it. -/
theorem argOf_of_decodeOperands_ok {k : Mnemonic} {arg : BitVec 32} {stream : List Byte} {i : Instr}
    (h : decodeOperands k arg stream = .ok i) : argOf i = arg := by
  obtain ⟨hlength, hzero⟩ := of_decodeOperands_ok h
  have habove := hzero.above
  cases k with
  | init | beginpkt | endpkt | rdpayload | pktrssi | pktsnr =>
    obtain ⟨-, rfl⟩ := reserved_eq_ok.1 h
    exact eq_zero_of_getLsbD habove
  | rdreg | setmode | setsf | setldr | setcr | setpreamble | setsync | receive | rxpoll =>
    obtain ⟨-, rfl⟩ := reserved_eq_ok.1 h
    exact setWidth_extractLsb'_self habove
  | setlr | setcrc | setimpl | onrecv =>
    obtain ⟨-, rfl⟩ := reserved_eq_ok.1 h
    exact (congrArg _ (ofBool_getLsbD arg 0)).trans (setWidth_extractLsb'_self habove)
  | setfreq | setbw => cases h; rfl
  | wrreg =>
    obtain ⟨-, rfl⟩ := reserved_eq_ok.1 h
    exact twoFields_extractLsb' habove fun j hj hj8 => hzero j ⟨by omega, .inr ⟨rfl, by omega⟩⟩
  | settxpwr =>
    obtain ⟨-, rfl⟩ := reserved_eq_ok.1 h
    rw [argOf, ofBool_getLsbD]
    exact twoFields_extractLsb' habove fun j _ _ => by omega
  | write =>
    obtain rfl := write_of_decodeOperands_ok h
    rw [argOf, List.length_take, Nat.min_eq_left hlength, dataLength, if_pos rfl, BitVec.ofNat_toNat]
    exact setWidth_extractLsb'_self habove

/-- The data bytes of the command are those the word counts. -/
theorem dataOf_of_decodeOperands_ok {k : Mnemonic} {arg : BitVec 32} {stream : List Byte} {i : Instr}
    (h : decodeOperands k arg stream = .ok i) : dataOf i = stream.take (dataLength k arg) := by
  cases k with
  | write => rw [write_of_decodeOperands_ok h, dataOf]
  | setfreq | setbw => cases h; rfl
  | _ => obtain ⟨-, rfl⟩ := reserved_eq_ok.1 h; rfl

theorem reservedZero_of_toNat_lt {k : Mnemonic} {arg : BitVec 32} (hk : k ≠ .wrreg)
    (h : arg.toNat < 2 ^ operandBits k) : ReservedZero k arg := by
  rintro j ⟨-, hj | ⟨rfl, -⟩⟩
  · exact Nat.testBit_lt_two_pow (h.trans_le (Nat.pow_le_pow_right (by decide) hj))
  · exact absurd rfl hk

theorem toNat_setWidth_lt {w : Nat} (v : BitVec w) : (v.setWidth 32).toNat < 2 ^ w := by
  rw [BitVec.toNat_setWidth]
  exact (Nat.mod_le _ _).trans_lt v.isLt

theorem argOf_wrreg (addr : Addr) (value : Byte) : argOf (.wrreg addr value) = twoFields value addr := rfl

theorem argOf_settxpwr (level : Byte) (boost : Bool) :
    argOf (.settxpwr level boost) = twoFields (BitVec.ofBool boost) level := rfl

/-- The encoder leaves every reserved bit zero. -/
theorem reservedZero_argOf {i : Instr} (h : i.encodable = true) : ReservedZero i.mnemonic (argOf i) := by
  cases i with
  | init | beginpkt | endpkt | rdpayload | pktrssi | pktsnr => exact reservedZero_of_toNat_lt nofun (by decide)
  | rdreg v | setmode v | setsf v | setldr v | setcr v | setpreamble v | setsync v | receive v | rxpoll v =>
    exact reservedZero_of_toNat_lt nofun (toNat_setWidth_lt v)
  | setlr en | setcrc en | setimpl en | onrecv en => exact reservedZero_of_toNat_lt nofun (toNat_setWidth_lt _)
  | setfreq v | setbw v => exact reservedZero_of_toNat_lt nofun v.isLt
  | wrreg addr value =>
    rintro j ⟨hj, hres⟩
    have hv := value.getLsbD_of_ge (j - 8)
    have ha := addr.getLsbD_of_ge j
    simp only [Instr.mnemonic, operandBits] at hres
    exact (getLsbD_twoFields value addr j).trans (by grind)
  | settxpwr level boost =>
    rintro j ⟨hj, hres⟩
    have hb := (BitVec.ofBool boost).getLsbD_of_ge (j - 8)
    have hl := level.getLsbD_of_ge j
    simp only [Instr.mnemonic, operandBits] at hres
    exact (getLsbD_twoFields (BitVec.ofBool boost) level j).trans (by grind)
  | write data =>
    refine reservedZero_of_toNat_lt nofun ?_
    have hlt : data.length < 65536 := by simpa [Instr.encodable] using h
    exact (Nat.mod_le _ _).trans_lt hlt

/-- The word of a command counts its data bytes. -/
theorem dataLength_argOf {i : Instr} (h : i.encodable = true) : dataLength i.mnemonic (argOf i) = (dataOf i).length := by
  cases i with
  | write data =>
    have hlt : data.length < 65536 := by simpa [Instr.encodable] using h
    simp only [dataLength, Instr.mnemonic, if_true, argOf, dataOf, BitVec.extractLsb'_toNat, BitVec.toNat_ofNat]
    omega
  | _ => rfl

theorem decodeOperands_argOf_ok {i : Instr} (h : i.encodable = true) (more : List Byte) :
    ∃ i', decodeOperands i.mnemonic (argOf i) (dataOf i ++ more) = .ok i' := by
  obtain ⟨i', heq⟩ := decodeOperands_cases i.mnemonic (argOf i) (dataOf i ++ more)
  have hlength : ¬ (dataOf i ++ more).length < dataLength i.mnemonic (argOf i) := by simp [dataLength_argOf h]
  have hmask := and_reservedMask_eq_zero.2 (reservedZero_argOf h)
  exact ⟨i', by rw [heq, if_neg hlength, reserved_eq_ok.2 ⟨hmask, rfl⟩]⟩

/-- Each operand is read back from the place the encoder gives it. -/
theorem decodeOperands_argOf {i : Instr} (h : i.encodable = true) (more : List Byte) :
    decodeOperands i.mnemonic (argOf i) (dataOf i ++ more) = .ok i := by
  obtain ⟨i', hok⟩ := decodeOperands_argOf_ok h more
  rw [hok]
  congr 1
  cases i with
  | init | beginpkt | endpkt | rdpayload | pktrssi | pktsnr =>
    obtain ⟨-, rfl⟩ := reserved_eq_ok.1 hok
    rfl
  | setfreq v | setbw v => cases hok; rfl
  | rdreg v | setmode v | setsf v | setldr v | setcr v | setpreamble v | setsync v | receive v | rxpoll v =>
    obtain ⟨-, rfl⟩ := reserved_eq_ok.1 hok
    simp only [argOf, extractLsb'_setWidth_self, Nat.reduceLeDiff]
  | setlr en | setcrc en | setimpl en | onrecv en =>
    obtain ⟨-, rfl⟩ := reserved_eq_ok.1 hok
    simp only [argOf, getLsbD_setWidth_ofBool]
  | wrreg addr value =>
    obtain ⟨-, rfl⟩ := reserved_eq_ok.1 hok
    simp only [argOf_wrreg, extractLsb'_twoFields_low, extractLsb'_twoFields_high, Nat.reduceLeDiff, Nat.reduceAdd]
  | settxpwr level boost =>
    obtain ⟨-, rfl⟩ := reserved_eq_ok.1 hok
    simp only [argOf_settxpwr, extractLsb'_twoFields_low, getLsbD_twoFields_ofBool, Nat.le_refl]
  | write data =>
    have hlength : dataLength .write (argOf (.write data)) = data.length := dataLength_argOf h
    rw [write_of_decodeOperands_ok hok, hlength]
    exact congrArg _ List.take_left

end Sys2Proof
end

section
/-! CERTIFICATES. Decoding and encoding are inverse (spec/30_encoding.md R71 to R73), and the textual form (R81, R82). -/

namespace Sys2Proof

open Sys2Proof.Machine

/-- Settles O5: the opcode finds the command, and each operand is read back. -/
theorem decodeOfEncode : Obligations.DecodeOfEncode := by
  unfold Obligations.DecodeOfEncode
  intro o i more hcodes hi
  have hfind : o.find (opField (encodeWord o i)) = some i.mnemonic := by
    rw [opField_encodeWord, Opcodes.find_of hcodes]
  constructor
  · have hdecode := decodeOperands_argOf hi more
    rw [encode, decode_of_find hfind, argField_encodeWord, hdecode]
  · rw [encode, dataCount_of_find hfind, argField_encodeWord, dataLength_argOf hi]

/-- Settles O6: the two fields of the word and the data bytes are those of the command. -/
theorem encodeOfDecode : Obligations.EncodeOfDecode := by
  unfold Obligations.EncodeOfDecode
  intro o w stream i h
  have hfind := decode_ok_find h
  rw [decode_of_find hfind] at h
  have hword : encodeWord o i = w := by
    rw [encodeWord, opcodeOf, Opcodes.of_find hfind, argOf_of_decodeOperands_ok h, opField_append_argField]
  rw [encode, hword, dataOf_of_decodeOperands_ok h, dataCount_of_find hfind]

/-- Settles O7: seven fixed words, decoded by evaluation. -/
theorem sampleWordsDecode : Obligations.SampleWordsDecode := by
  unfold Obligations.SampleWordsDecode
  decide

/-- Settles O60: fixed lines, read by evaluation. -/
theorem textAssemblesToExampleWords : Obligations.TextAssemblesToExampleWords := by
  unfold Obligations.TextAssemblesToExampleWords
  decide

end Sys2Proof
end

section
/-! CERTIFICATES. Accepting a command (spec/30_encoding.md R70 to R79): every word has an outcome, a decoded command runs,
and what is refused is answered and does nothing else. -/

namespace Sys2Proof.Machine

open Sys2Proof

section
variable {s t : State} {w : CmdWord} {ws : List CmdWord} {i : Instr} {st : Status}

/-! ## Every command answers -/

theorem exec_answers (i : Instr) (s : State) : ∃ t, exec i s = .next t := by
  rw [exec_eq]
  rcases runCommand_cases i (sequenceOf i s) s with ⟨-, he⟩ | ⟨-, -, he⟩ | ⟨-, -, he⟩ <;> exact ⟨_, he⟩

theorem atomicallyExec_of_exec (h : exec i s.forOneTransfer = .next t) :
    atomicallyExec (exec i) s = .next (t.giveBack (untilAnswer s.inputs).2) := by
  rw [atomicallyExec_eq, h]

/-! ## The step of a ready unit -/

theorem ready_iff : s.ready = true ↔ s.seq = .idle ∧ s.irqPending = false := by simp [State.ready]

theorem takeCommand_eq (hw : s.cmdWords = w :: ws) (n : Nat) :
    s.takeCommand n = { s with cmdWords := ws, cmdBytes := s.cmdBytes.drop n } := by
  simp [State.takeCommand, hw]

theorem step_of_command (hready : s.ready = true) (hr : rstAsserted s = false) (hfetch : fetchCommand s = .command i t) :
    step s = atomicallyExec (exec i) t := by
  obtain ⟨hidle, hp⟩ := ready_iff.1 hready
  simp [step, hidle, hr, hp, hfetch]

theorem step_of_rejected (hready : s.ready = true) (hr : rstAsserted s = false)
    (hfetch : fetchCommand s = .rejected st t) : step s = .next (t.respond st 0 []) := by
  obtain ⟨hidle, hp⟩ := ready_iff.1 hready
  simp [step, hidle, hr, hp, hfetch]

theorem respond_of_idle (hidle : s.seq = .idle) (st : Status) (r : BitVec 32) (data : List Byte) :
    s.respond st r data = { s with log := s.log ++ [.response st r data] } := by
  rw [State.respond, ← hidle]

/-- A word that is refused leaves the port with its data bytes, and is answered; nothing else happens. -/
theorem step_of_refused {n : Nat} (hready : s.ready = true) (hr : rstAsserted s = false) (hw : s.cmdWords = w :: ws)
    (hfetch : fetchCommand s = .rejected st (s.takeCommand n)) :
    step s = .next { s with cmdWords := ws, cmdBytes := s.cmdBytes.drop n, log := s.log ++ [.response st 0 []] } := by
  obtain ⟨hidle, -⟩ := ready_iff.1 hready
  rw [step_of_rejected hready hr hfetch, respond_of_idle (s := s.takeCommand n) hidle, takeCommand_eq hw]

/-! ## What the decoder gives -/

theorem fetchCommand_of_ok (hw : s.cmdWords = w :: ws) (hd : decode s.cfg.op w s.cmdBytes = .ok i) :
    fetchCommand s = .command i (s.takeCommand (dataCount s.cfg.op w)) := by
  simp only [fetchCommand, hw, hd]

theorem fetchCommand_of_illegalOp (hw : s.cmdWords = w :: ws) (hd : decode s.cfg.op w s.cmdBytes = .illegalOp) :
    fetchCommand s = .rejected .errOp (s.takeCommand 0) := by
  simp only [fetchCommand, hw, hd]

theorem fetchCommand_of_reservedBits (hw : s.cmdWords = w :: ws)
    (hd : decode s.cfg.op w s.cmdBytes = .reservedBits) :
    fetchCommand s = .rejected .errArg (s.takeCommand (dataCount s.cfg.op w)) := by
  simp only [fetchCommand, hw, hd]

theorem decode_illegal {o : Opcodes} (h : opField w ∉ o.codes) (stream : List Byte) :
    decode o w stream = .illegalOp := by
  simp only [decode, Opcodes.find_eq_none.2 h]

/-- A word with a reserved bit set is refused once its data bytes are there. -/
theorem decode_reservedBits {o : Opcodes} {k : Mnemonic} {j : Nat} {stream : List Byte}
    (hfind : o.find (opField w) = some k) (hj : reservedBit k j) (hbit : (argField w).getLsbD j = true)
    (hdata : dataCount o w ≤ stream.length) : decode o w stream = .reservedBits := by
  obtain ⟨i, hcases⟩ := decodeOperands_cases k (argField w) stream
  rw [dataCount_of_find hfind] at hdata
  have hmask : argField w &&& reservedMask k ≠ 0 := fun h => by
    simpa [hbit] using and_reservedMask_eq_zero.1 h j hj
  rw [decode_of_find hfind, hcases, if_neg (Nat.not_lt.2 hdata), reserved, if_neg hmask]

/-! ## An operand out of range -/

theorem exec_of_not_wf (hidle : s.seq = .idle) (hwf : i.wf s.cfg = false) :
    exec i s = .next { s with log := s.log ++ [.response .errArg 0 []] } := by
  rw [exec_eq, runCommand, hwf, ← respond_of_idle hidle]
  rfl

end

/-- Settles O4: of all that a step can do, only running a command could be refused, and no command is. -/
theorem everyStepAnswers : Obligations.EveryStepAnswers := by
  unfold Obligations.EveryStepAnswers
  refine ⟨fun s => ?_, exec_answers⟩
  rcases step_cases s with ⟨_, _, -, he⟩ | ⟨_, -, he⟩ | ⟨-, -, he⟩ | ⟨-, -, -, he⟩ |
    ⟨i, t, -, -, -, -, he⟩ | ⟨_, _, -, -, -, -, he⟩ | ⟨-, -, -, -, he⟩
  · exact ⟨_, he⟩
  · exact ⟨_, he⟩
  · exact ⟨_, he⟩
  · exact ⟨_, he⟩
  · obtain ⟨u, hu⟩ := exec_answers i t.forOneTransfer
    exact ⟨_, he.trans (atomicallyExec_of_exec hu)⟩
  · exact ⟨_, he⟩
  · exact ⟨_, he⟩

/-- Settles O8: the step runs the command on the inputs of one transfer, which are all inputs where none comes after the
answer. -/
theorem stepRunsDecodedCommand : Obligations.StepRunsDecodedCommand := by
  unfold Obligations.StepRunsDecodedCommand
  intro s t w ws i hready hr hw hd fetched split
  have hfetch : fetchCommand s = .command i fetched := by rw [fetchCommand_of_ok hw hd, takeCommand_eq hw]
  have hstep := step_of_command hready hr hfetch
  refine ⟨fun h => hstep.trans (atomicallyExec_of_exec h), fun hlater => hstep.trans ?_⟩
  have hall : fetched.forOneTransfer = fetched := by
    have happend := untilAnswer_append s.inputs
    rw [show (untilAnswer s.inputs).2 = [] from hlater, List.append_nil] at happend
    simp only [State.forOneTransfer, fetched, happend]
  obtain ⟨u, hu⟩ := exec_answers i fetched
  rw [hu, atomicallyExec_of_exec (hall ▸ hu), show (untilAnswer fetched.inputs).2 = [] from hlater]
  simp [State.giveBack]

/-- Settles O9: an opcode that is none of the 24 is not found. -/
theorem illegalOpcodeAnswersErrOp : Obligations.IllegalOpcodeAnswersErrOp := by
  unfold Obligations.IllegalOpcodeAnswersErrOp
  refine ⟨rfl, fun s w ws hready hr hw hop => ?_⟩
  exact step_of_refused hready hr hw (fetchCommand_of_illegalOp hw (decode_illegal hop _))

/-- Settles O10: the opcode finds the command, whose reserved mask meets the bit. -/
theorem reservedBitAnswersErrArg : Obligations.ReservedBitAnswersErrArg := by
  unfold Obligations.ReservedBitAnswersErrArg
  intro s w ws k j hready hr hw hcodes hop hj hbit hdata
  have hfind : s.cfg.op.find (opField w) = some k := by rw [hop, Opcodes.find_of hcodes]
  exact step_of_refused hready hr hw (fetchCommand_of_reservedBits hw (decode_reservedBits hfind hj hbit hdata))

/-- Settles O11: each of these operands fails its range, which is looked at before the lifecycle state. -/
theorem operandOutOfRangeAnswersErrArg : Obligations.OperandOutOfRangeAnswersErrArg := by
  unfold Obligations.OperandOutOfRangeAnswersErrArg
  intro s i hidle hrange
  refine exec_of_not_wf hidle ?_
  suffices hout : i.inRange s.cfg = false by rw [Instr.wf, hout, Bool.and_false]
  rcases hrange with ⟨addr, haddr, rfl | ⟨v, rfl⟩⟩ | ⟨f, rfl, hf⟩ | ⟨sf, rfl, hsf⟩ | rfl | ⟨den, rfl, hden⟩
  · simpa [Instr.inRange] using haddr
  · simpa [Instr.inRange] using haddr
  · simpa [Instr.inRange, UnitCfg.freqFits] using hf
  · simp only [Instr.inRange, Bool.and_eq_false_iff, decide_eq_false_iff_not]
    omega
  · rfl
  · simp only [Instr.inRange, Bool.and_eq_false_iff, decide_eq_false_iff_not]
    omega

end Sys2Proof.Machine
end

section
/-! CERTIFICATES. The response of a command (spec/30_encoding.md R74, spec/60_exceptions.md R180): every way its script
ends is a response, and nothing before the end is one. -/

namespace Sys2Proof.Machine

open Sys2Proof

/-! ## Scripts that end with a response -/

/-- The script ends with a response on every path through it. -/
def Script.Responds : Script → Prop
  | .finish f => ∃ st r data, f = .respond st r data
  | .assign _ p => p.Responds
  | .xfer _ _ k => ∀ b, (k b).Responds
  | .poll _ _ _ _ k => ∀ n b, (k n b).Responds

section
variable {p : Script} (c : UnitCfg)

theorem responds_respond (st : Status) (r : BitVec 32) (data : List Byte) :
    (Script.finish (.respond st r data)).Responds := ⟨st, r, data, rfl⟩

@[simp] theorem responds_respondOk (result : BitVec 32) : (respondOk result).Responds := responds_respond _ _ _
@[simp] theorem responds_raise (st : Status) (info : BitVec 32) : (raise st info).Responds := responds_respond _ _ _
@[simp] theorem responds_assign (a : Assign) : (Script.assign a p).Responds ↔ p.Responds := Iff.rfl
@[simp] theorem responds_busRead (addr : Addr) (k : Byte → Script) :
    (busRead c addr k).Responds ↔ ∀ b, (k b).Responds := Iff.rfl
@[simp] theorem responds_busWrite (addr : Addr) (v : Byte) : (busWrite c addr v p).Responds ↔ p.Responds :=
  forall_const Byte
@[simp] theorem responds_busPoll (addr : Addr) (stop : Nat → Byte → Bool) (k : Nat → Byte → Script) :
    (busPoll c addr stop k).Responds ↔ ∀ n b, (k n b).Responds := Iff.rfl
@[simp] theorem responds_ite (b : Prop) [Decidable b] (q : Script) :
    (if b then p else q).Responds ↔ (b → p.Responds) ∧ (¬ b → q.Responds) := by
  split <;> simp_all

@[simp] theorem responds_rmw (addr : Addr) (mask val : Byte) (k : Byte → Script) :
    (rmw c addr mask val k).Responds ↔ ∀ old, (k (maskedUpdate old mask val)).Responds := by
  simp [rmw]

@[simp] theorem responds_setMode (sel : BitVec 3) : (setMode c sel p).Responds ↔ p.Responds := by simp [setMode]

@[simp] theorem responds_setLongRange (en : Bool) : (setLongRange c en p).Responds ↔ p.Responds := by
  simp [setLongRange]

@[simp] theorem responds_setImplicit (b : Bool) : (setImplicit c b p).Responds ↔ p.Responds := by
  simp [setImplicit, rmwField]

@[simp] theorem responds_headerForSize (size : Byte) : (headerForSize c size p).Responds ↔ p.Responds := by
  unfold headerForSize
  split <;> simp

@[simp] theorem responds_writeFifo (bytes : List Byte) : (writeFifo c bytes p).Responds ↔ p.Responds := by
  induction bytes with
  | nil => rfl
  | cons b bytes ih => exact (responds_busWrite c _ b).trans ih

theorem responds_readFifo {k : List Byte → Script} (h : ∀ bytes, (k bytes).Responds) (n : Nat) (got : List Byte) :
    (readFifo c k n got).Responds := by
  induction n generalizing got with
  | zero => exact h got
  | succ n ih => exact fun b => ih _

theorem responds_extractPayload (implicit : Bool) {k : List Byte → Script} (h : ∀ bytes, (k bytes).Responds) :
    (extractPayload c implicit k).Responds := by
  simp only [extractPayload, responds_busRead, responds_busWrite]
  exact fun _ len => responds_readFifo c h len.toNat []

end

/-- Every command ends with a response. -/
theorem sequenceOf_responds (i : Instr) (s : State) : (sequenceOf i s).Responds := by
  cases i with
  | init => simp [sequenceOf, seqInit]
  | rdreg addr => simp [sequenceOf, seqRdreg]
  | wrreg addr value => simp [sequenceOf, seqWrreg]
  | setmode sel => simp [sequenceOf, seqSetmode]
  | setlr en => simp [sequenceOf, seqSetlr]
  | setfreq f => simp [sequenceOf, seqSetfreq]
  | settxpwr level boost => simp [sequenceOf, seqSettxpwr]
  | setbw b => simp [sequenceOf, seqSetbw, rmwField]
  | setsf sf => simp [sequenceOf, seqSetsf, rmwField]
  | setldr ldr => simp [sequenceOf, seqSetldr, writeLdr, rmwField]
  | setcr den => simp [sequenceOf, seqSetcr, rmwField]
  | setpreamble len => simp [sequenceOf, seqSetpreamble]
  | setsync sw => simp [sequenceOf, seqSetsync]
  | setcrc en => simp [sequenceOf, seqSetcrc, rmwField]
  | setimpl en => simp [sequenceOf, seqSetimpl]
  | beginpkt => simp [sequenceOf, seqBeginpkt]
  | write data => simp [sequenceOf, seqWrite]
  | endpkt => simp [sequenceOf, seqEndpkt, afterPoll]
  | receive size => simp [sequenceOf, seqReceive]
  | rxpoll size => simp [sequenceOf, seqRxpoll]
  | rdpayload => exact responds_extractPayload _ _ fun _ => responds_respond _ _ _
  | pktrssi => cases hf : s.freqShadow <;> simp [sequenceOf, seqPktrssi, hf]
  | pktsnr => simp [sequenceOf, seqPktsnr]
  | onrecv en => cases en <;> simp [sequenceOf, seqOnrecv]

/-! ## The log of a command -/

/-- From `s` to `t` the log gains events, and none of them is a response. -/
def Quiet (s t : State) : Prop := ∃ events, t.log = s.log ++ events ∧ ∀ e ∈ events, isResponse e = false

/-- From `s` the command is over in `t`, with one response behind events that are none. -/
def Answered (s t : State) : Prop :=
  t.seq = .idle ∧ ∃ events st r data, t.log = s.log ++ (events ++ [.response st r data]) ∧
    ∀ e ∈ events, isResponse e = false

/-- The command has not responded yet, and waits. -/
def Waiting (i : Instr) (s t : State) : Prop := (∃ trail, t.seq = .fg i trail) ∧ Quiet s t

section
variable {i : Instr} {s t u : State}

theorem Quiet.of_same (h : Quiet s t) (hlog : u.log = t.log) : Quiet s u := by
  rwa [Quiet, hlog]

theorem Quiet.of_event {e : Event} (h : Quiet s t) (he : isResponse e = false) (hlog : u.log = t.log ++ [e]) :
    Quiet s u := by
  obtain ⟨events, hevents, hquiet⟩ := h
  refine ⟨events ++ [e], by rw [hlog, hevents, List.append_assoc], fun e' he' => ?_⟩
  rcases List.mem_append.1 he' with hmem | hmem
  · exact hquiet e' hmem
  · rwa [List.mem_singleton.1 hmem]

theorem Quiet.respond (h : Quiet s t) (st : Status) (r : BitVec 32) (data : List Byte) :
    Answered s (t.respond st r data) := by
  obtain ⟨events, hevents, hquiet⟩ := h
  exact ⟨rfl, events, st, r, data, by rw [respond_log, hevents, List.append_assoc], hquiet⟩

theorem Waiting.apply (h : Waiting i s t) (a : Assign) : Waiting i s (a.apply t) := by
  obtain ⟨htrail, hquiet⟩ := h
  cases a with
  | arm => exact ⟨htrail, hquiet.of_event (e := .arm) rfl rfl⟩
  | disarm => exact ⟨htrail, hquiet.of_event (e := .disarm) rfl rfl⟩
  | _ => exact ⟨htrail, hquiet.of_same rfl⟩

/-- A script that ends with a response leads a waiting command to its answer. -/
theorem Script.Responds.leads {p : Script} {End : State → Prop} (hp : p.Responds)
    (hend : ∀ u, Answered s u → End u) (h : Waiting i s t) : p.Leads (Waiting i s) End t := by
  induction p generalizing t with
  | finish f =>
    obtain ⟨st, r, data, rfl⟩ := hp
    exact fun es => hend _ (h.2.respond st r data)
  | assign a p ih => exact ih hp (h.apply a)
  | xfer a d k ih => exact ⟨h, fun b u hu => ih b (hp b) hu⟩
  | poll a d stop n k ih => exact ⟨h, fun n b u hu => ih n b (hp n b) hu⟩

/-- While the command waits nothing responds, but a `BusError` does and ends it. -/
theorem waiting_runKeeps (i : Instr) (s : State) : RunKeeps (Waiting i s) fun t => Answered s t ∨ Waiting i s t where
  wait _ _ h := .inr h
  byte t a d b := by
    rintro ⟨⟨trail, hq⟩, hquiet⟩
    exact ⟨⟨trail ++ [b], by simp [hq, Seq.push]⟩, hquiet.of_event (e := .xfer a d (.byte b)) rfl rfl⟩
  error t a d es := by
    rintro ⟨⟨trail, hq⟩, hquiet⟩
    simp only [State.busFail, hq]
    exact .inl ((hquiet.of_event (e := .xfer a d .error) rfl rfl).respond _ _ _)
  edge t h := ⟨by simpa using h.1, h.2.of_same (latchEdge_log t)⟩
  command _ _ _ h := h
  take _ h := h

theorem exec_answered_or_waiting (hr : .rst ∉ s.inputs) (h : exec i s = .next t) : Answered s t ∨ Waiting i s t := by
  have hquiet : Quiet s s := ⟨[], by simp, by simp⟩
  refine leads_exec (waiting_runKeeps i s) (fun hmem => absurd hmem hr) (fun st _ => .inl (hquiet.respond st 0 []))
    (fun _ _ => ?_) h
  exact (sequenceOf_responds i s).leads (fun _ => .inl) ⟨⟨[], rfl⟩, hquiet⟩

/-! ## A command that waits has used up its inputs -/

theorem runScript_nil_inputs (p : Script) (s : State) : (runScript [] p s).inputs = [] := by
  cases p with
  | finish f => cases f <;> rfl
  | _ => rfl

theorem inputs_eq_nil_of_exec (h : exec i s = .next t) (hbusy : t.seq ≠ .idle) : t.inputs = [] := by
  rcases exec_refused_or_runs i s with ⟨st, href⟩ | hrun
  · obtain rfl := Host.Outcome.next.inj (h.symm.trans (href s.inputs))
    exact absurd rfl hbusy
  · obtain rfl := Host.Outcome.next.inj (h.symm.trans (hrun s.inputs))
    obtain ⟨bytes, -, hmore⟩ := runScript_append hbusy
    have hsame := hmore []
    rw [List.append_nil] at hsame
    rw [hsame]
    exact runScript_nil_inputs _ _

end

/-- Settles O49: a command without a reset is answered or waits, and where it waits no input is left. -/
theorem oneResponseAfterLastTransfer : Obligations.OneResponseAfterLastTransfer := by
  unfold Obligations.OneResponseAfterLastTransfer
  intro i s t hr h
  rcases exec_answered_or_waiting hr h with ⟨hidle, events, st, r, data, hlog, hquiet⟩ |
    ⟨⟨trail, hq⟩, events, hlog, hquiet⟩
  · exact ⟨_, hlog, .inl ⟨hidle, events, st, r, data, rfl, hquiet⟩⟩
  · exact ⟨events, hlog, .inr ⟨trail, hq, inputs_eq_nil_of_exec h (by simp [hq]), hquiet⟩⟩

end Sys2Proof.Machine
end

section
/-! SUPPORT. A command whose transfers are all answered with bytes, one lemma per operation of its script: what each
transfer adds to the log, and that nothing else changes (spec/20_memory.md R42, R43). -/

namespace Sys2Proof.Machine

open Sys2Proof

/-! ## The answers -/

@[simp] theorem busAnswers_nil : busAnswers [] = [] := rfl
@[simp] theorem busAnswers_cons (b : Byte) (bytes : List Byte) :
    busAnswers (b :: bytes) = .bus (.byte b) :: busAnswers bytes := rfl

/-! ## A sequence under way -/

/-- `s` at position `q` of a sequence that has made these events so far and has these inputs before it. -/
def underway (s : State) (q : Seq) (es : List Input) (events : List Event) : State :=
  { s with seq := q, inputs := es, log := s.log ++ events }

section
variable {s : State} {q : Seq} {es : List Input} {events : List Event}

theorem underway_inputs : (underway s q es events).inputs = es := rfl

theorem underway_transferred (a d b : Byte) :
    (underway s q es events).transferred a d b = underway s (q.push b) es (events ++ [.xfer a d (.byte b)]) := by
  simp [underway, State.transferred]

theorem underway_respond (st : Status) (r : BitVec 32) (data : List Byte) :
    (underway s q es events).respond st r data = afterEvents s es (events ++ [.response st r data]) := by
  simp [underway, State.respond, afterEvents]

/-- Where a script settles, the inputs do not count. -/
theorem runScript_settle_inputs (es x : List Input) (p : Script) (t : State) :
    runScript es p.skip (p.settle { t with inputs := x }).2 = runScript es p.skip (p.settle t).2 := by
  rw [settle_inputs, runScript_inputs]

/-- An answered transfer: the rest of the script starts behind it. -/
theorem startScript_xfer (a d b : Byte) (k : Byte → Script) :
    startScript (.xfer a d k) (underway s q (.bus (.byte b) :: es) events) =
      startScript (k b) (underway s (q.push b) es (events ++ [.xfer a d (.byte b)])) :=
  calc startScript (.xfer a d k) (underway s q (.bus (.byte b) :: es) events)
      = runScript es (k b).skip
          ((k b).settle ((underway s q (.bus (.byte b) :: es) events).transferred a d b)).2 := by
        rw [← settle_fst]
        rfl
    _ = runScript es (k b).skip ((k b).settle (underway s (q.push b) es (events ++ [.xfer a d (.byte b)]))).2 := by
        rw [underway_transferred]
        exact runScript_settle_inputs es _ (k b) (underway s (q.push b) es (events ++ [.xfer a d (.byte b)]))
    _ = startScript (k b) (underway s (q.push b) es (events ++ [.xfer a d (.byte b)])) := by
        rw [startScript_eq, underway_inputs]

@[simp] theorem startScript_busRead (c : UnitCfg) (addr : Addr) (b : Byte) (k : Byte → Script) :
    startScript (busRead c addr k) (underway s q (.bus (.byte b) :: es) events) =
      startScript (k b) (underway s (q.push b) es (events ++ [readEvent c addr b])) :=
  startScript_xfer _ _ b k

@[simp] theorem startScript_busWrite (c : UnitCfg) (addr : Addr) (v b : Byte) (p : Script) :
    startScript (busWrite c addr v p) (underway s q (.bus (.byte b) :: es) events) =
      startScript p (underway s (q.push b) es (events ++ [writeEvent c addr v b])) :=
  startScript_xfer _ v b _

@[simp] theorem startScript_respondOk (result : BitVec 32) :
    startScript (respondOk result) (underway s q es events) = afterEvents s es (events ++ [okEvent result]) :=
  (runScript_finish es _ (underway s q es events)).trans
    (underway_respond (s := s) (q := q) (es := es) (events := events) .ok result [])

/-- A command whose checks pass starts its sequence with no event made. -/
theorem exec_starts {i : Instr} (hwf : i.wf s.cfg = true) (hallows : lifecycleAllows i s = true) (hin : s.inputs = es) :
    exec i s = .next (startScript (sequenceOf i s) (underway s (.fg i []) es [])) := by
  rw [exec_eq, runCommand_runs hwf hallows, underway, List.append_nil, ← hin]

end

end Sys2Proof.Machine
end

section
/-! CERTIFICATES. Raw register access (spec/40_register_access.md R100, R101). -/

namespace Sys2Proof.Machine

open Sys2Proof

@[simp] theorem wf_rdreg {c : UnitCfg} {addr : Addr} : (Instr.rdreg addr).wf c = true ↔ addr.toNat < 2 ^ c.addrW := by
  simp [Instr.wf, Instr.encodable, Instr.inRange]

@[simp] theorem wf_wrreg {c : UnitCfg} {addr : Addr} {value : Byte} :
    (Instr.wrreg addr value).wf c = true ↔ addr.toNat < 2 ^ c.addrW := by
  simp [Instr.wf, Instr.encodable, Instr.inRange]

/-- Settles O15: the sequence is one read, and the byte it is answered is the result. -/
theorem rdregReadsOneRegister : Obligations.RdregReadsOneRegister := by
  unfold Obligations.RdregReadsOneRegister
  intro s addr v rest hready haddr hin
  rw [exec_starts (wf_rdreg.2 haddr) (lifecycleAllows_of_ready hready) hin]
  simp [sequenceOf, seqRdreg]

/-- Settles O16: the sequence is one write without an assignment, and the byte it is answered is dropped. -/
theorem wrregWritesOneRegister : Obligations.WrregWritesOneRegister := by
  unfold Obligations.WrregWritesOneRegister
  intro s addr value x rest hready haddr hin
  rw [exec_starts (wf_wrreg.2 haddr) (lifecycleAllows_of_ready hready) hin]
  simp [sequenceOf, seqWrreg]

end Sys2Proof.Machine
end

section
/-! SUPPORT. The read-modify-write sequences of the operating mode with every transfer answered, and a transfer that
fails inside a command (spec/20_memory.md R44, spec/41_mode_control.md R111, R113). -/

namespace Sys2Proof.Machine

open Sys2Proof

section
variable {s : State} {q : Seq} {es : List Input} {events : List Event}

@[simp] theorem startScript_assign (a : Assign) (p : Script) (t : State) :
    startScript (.assign a p) t = startScript p (a.apply t) := by
  cases a <;> rfl

@[simp] theorem apply_modeShadow_underway (w : Byte) :
    Assign.apply (.modeShadow w) (underway s q es events) = underway { s with modeShadow := some w } q es events := rfl

@[simp] theorem startScript_rmw (c : UnitCfg) (addr : Addr) (mask val old x : Byte) (k : Byte → Script) :
    startScript (rmw c addr mask val k) (underway s q (.bus (.byte old) :: .bus (.byte x) :: es) events) =
      startScript (k (maskedUpdate old mask val))
        (underway s ((q.push old).push x) es (events ++ rmwEvents c addr mask val old x)) := by
  simp [rmw, rmwEvents, maskedUpdate]

@[simp] theorem startScript_setMode (c : UnitCfg) (sel : BitVec 3) (m x : Byte) (p : Script) :
    startScript (setMode c sel p) (underway s q (.bus (.byte m) :: .bus (.byte x) :: es) events) =
      startScript p (underway { s with modeShadow := some (withSelector c m sel) } ((q.push m).push x) es
        (events ++ rmwEvents c c.chip.opMode c.chip.mode.mask (selectorBits c sel) m x)) := by
  simp [setMode, withSelector]

/-- A transfer that fails ends the command with `ERR_BUS`; what was assigned before it stays. -/
theorem startScript_busWrite_error (c : UnitCfg) (addr : Addr) (v : Byte) (p : Script) (i : Instr) (trail : List Byte) :
    startScript (busWrite c addr v p) (underway s (.fg i trail) (.bus .error :: es) events) =
      afterEvents s es (events ++ [.xfer (writeAddress c addr) v .error, .response .errBus 0 []]) := by
  have hfail : startScript (busWrite c addr v p) (underway s (.fg i trail) (.bus .error :: es) events) =
      State.busFail (underway s (.fg i trail) es (events ++ [.xfer (writeAddress c addr) v .error])) := by
    rw [startScript_eq, underway_inputs, busWrite_eq, Script.skip, runScript_cons (request_xfer _ _ _)]
    simp [underway]
  rw [hfail]
  exact (underway_respond .errBus 0 []).trans (by rw [List.append_assoc]; rfl)

end

end Sys2Proof.Machine
end

section
/-! CERTIFICATES. `SETMODE` and `SETLR` with the bus answering (spec/41_mode_control.md R110 to R113). -/

namespace Sys2Proof.Machine

open Sys2Proof

@[simp] theorem wf_setmode (c : UnitCfg) (sel : BitVec 3) : (Instr.setmode sel).wf c = true := rfl
@[simp] theorem wf_setlr (c : UnitCfg) (en : Bool) : (Instr.setlr en).wf c = true := rfl

/-- Settles O17: the sequence is `SetMode` and the response. -/
theorem setmodeReplacesSelector : Obligations.SetmodeReplacesSelector := by
  unfold Obligations.SetmodeReplacesSelector
  intro s sel m x rest hready hin
  rw [exec_starts (wf_setmode s.cfg sel) (lifecycleAllows_of_ready hready) hin]
  simp [sequenceOf, seqSetmode, afterEvents, withSelector, maskedUpdate]

/-- Settles O18: the shadow is assigned behind each write, so the third transfer, where it fails, leaves the byte of the
first write there. -/
theorem setlrGoesThroughSleep : Obligations.SetlrGoesThroughSleep := by
  unfold Obligations.SetlrGoesThroughSleep
  intro s en m0 x1 x2 x3 rest hready c w1 w2 w3
  have starts {es : List Input} (hin : s.inputs = es) :
      exec (.setlr en) s =
        .next (startScript (setLongRange c en (respondOk 0)) (underway s (.fg (.setlr en) []) es [])) :=
    exec_starts (wf_setlr c en) (lifecycleAllows_of_ready hready) hin
  refine ⟨fun hin => ?_, fun hin => ?_⟩
  · rw [starts hin]
    simp [setLongRange, afterEvents, withSelector, withLongRange, maskedUpdate, c, w1, w2, w3]
  · rw [starts hin]
    simp [setLongRange, startScript_busWrite_error, Seq.push, afterEvents, withSelector, withLongRange, maskedUpdate,
      c, w1, w2]

end Sys2Proof.Machine
end

section
/-! SUPPORT. Fields of a register byte under masked updates (spec/10_state.md R25, spec/40_register_access.md R102). -/

namespace Sys2Proof.Machine

open Sys2Proof

/-! ## Masked updates -/

/-- An update leaves every bit that neither its mask nor its value has. -/
theorem maskedUpdate_and_of_disjoint {old mask val other : Byte} (hmask : mask &&& other = 0)
    (hval : val &&& other = 0) : maskedUpdate old mask val &&& other = old &&& other := by
  ext j hj
  have hm : (mask &&& other)[j] = false := by rw [hmask]; exact BitVec.getElem_zero hj
  have hv : (val &&& other)[j] = false := by rw [hval]; exact BitVec.getElem_zero hj
  grind [maskedUpdate]

/-- An update puts its value at the places of its mask. -/
theorem maskedUpdate_and_mask (old mask val : Byte) : maskedUpdate old mask val &&& mask = val &&& mask := by
  ext j hj
  grind [maskedUpdate]

theorem fieldPlace_and_of_disjoint {f : Field} {other : Byte} (h : f.mask &&& other = 0) (v : Byte) :
    fieldPlace f v &&& other = 0 := by
  rw [fieldPlace, BitVec.and_assoc, h]; exact BitVec.and_zero

theorem fieldPlace_and_mask (f : Field) (v : Byte) : fieldPlace f v &&& f.mask = fieldPlace f v := by
  rw [fieldPlace, BitVec.and_assoc, BitVec.and_self]

/-- The bits of a field's mask are the `width` bits from its lowest one on. -/
theorem getLsbD_mask_of_isRun {f : Field} {bits width : Nat} (h : f.isRun bits width = true) (j : Nat) :
    f.mask.getLsbD j = (decide (j < 8) && decide (f.lo ≤ j) && decide (j < f.lo + width)) := by
  obtain ⟨-, hmask⟩ : f.lo + width ≤ bits ∧ f.mask = BitVec.ofNat 8 ((2 ^ width - 1) * 2 ^ f.lo) := by
    simpa [Field.isRun] using h
  rw [hmask, BitVec.getLsbD_ofNat, Nat.testBit_mul_two_pow, Nat.testBit_two_pow_sub_one]
  grind

/-- A value that fits a field is read back from the byte it is placed in. -/
theorem fieldGet_fieldPlace {f : Field} {width : Nat} (h : f.isRun 8 width = true) (v : BitVec width) :
    fieldGet f (fieldPlace f (v.setWidth 8)) = v.setWidth 8 := by
  have hfits : f.lo + width ≤ 8 := by simp_all [Field.isRun]
  have hmask := getLsbD_mask_of_isRun h
  rw [fieldGet, fieldPlace_and_mask, fieldPlace]
  ext j hj
  grind

/-- The field read from an updated byte is the field of the value written. -/
theorem fieldGet_maskedUpdate (f : Field) (old val : Byte) :
    fieldGet f (maskedUpdate old f.mask val) = fieldGet f val := by
  rw [fieldGet, maskedUpdate_and_mask, fieldGet]

end Sys2Proof.Machine
end

section
/-! SUPPORT. The long-range gate over the script of a sequence (spec/41_mode_control.md R114): what each transfer shows
of the operating mode, and that a run of a script that keeps the gate makes a log that does. -/

namespace Sys2Proof.Machine

open Sys2Proof

/-! ## The operating mode in a legal parameter record -/

/-- The registers of the map other than the operating mode; a legal map has them elsewhere (spec/91_not_in_source.md
N1). -/
abbrev otherRegisters (m : ChipMap) : List Addr :=
  [m.fifo, m.frfMsb, m.frfMid, m.frfLsb, m.paConfig, m.fifoAddrPtr, m.fifoTxBase, m.fifoRxBase, m.fifoRxCurrent,
   m.irqFlags, m.rxNbBytes, m.pktSnr, m.pktRssi, m.modemConfig1, m.modemConfig2, m.preambleMsb, m.preambleLsb,
   m.payloadLength, m.modemConfig3, m.syncWord, m.version]

section
variable {c : UnitCfg}

/-- What the gate needs of the map: the three fields of the operating mode that scripts write have their widths and do
not overlap with the long-range bit (spec/10_state.md R26). -/
theorem modeFields_of_legal (h : c.legal = true) :
    c.chip.mode.isRun 8 3 = true ∧ c.chip.mode.mask &&& c.chip.longRange.mask = 0 ∧
      c.chip.lowFreq.mask &&& c.chip.longRange.mask = 0 := by
  simp only [UnitCfg.legal, UnitCfg.legalWidths, ChipMap.legal, ChipMap.fieldWidths, Field.disjoint, List.all_cons,
    Bool.and_eq_true, decide_eq_true_eq, BitVec.and_comm c.chip.longRange.mask] at h
  have hw : c.dataW = 8 := by tauto
  rw [hw] at h
  tauto

theorem ne_opMode_of_legal (h : c.legal = true) {addr : Addr} (hmem : addr ∈ otherRegisters c.chip) :
    addr ≠ c.chip.opMode := by
  have hnodup : (c.chip.fifo :: c.chip.opMode :: (otherRegisters c.chip).tail).Nodup := by
    simp only [UnitCfg.legal, ChipMap.legal, Bool.and_eq_true, decide_eq_true_eq] at h
    tauto
  rintro rfl
  exact (List.nodup_cons.1 (hnodup.perm (.swap _ _ _))).1 hmem

/-- A write that leaves the long-range bit passes. -/
theorem gateAllows_of_same {prev w : Byte} (wasWrite : Bool)
    (h : w &&& c.chip.longRange.mask = prev &&& c.chip.longRange.mask) :
    gateAllows c (some (wasWrite, prev)) w = true := by
  simp [gateAllows, longRangeChanges, h]

/-- Behind a write of the SLEEP selector every write passes. -/
theorem gateAllows_of_sleep {prev : Byte} (h : selectorIs c c.sel.sleep prev = true) (w : Byte) :
    gateAllows c (some (true, prev)) w = true := by
  simp [gateAllows, h]

theorem selectorIs_withSelector (h : c.legal = true) (m : Byte) (sel : BitVec 3) :
    selectorIs c sel (withSelector c m sel) = true := by
  obtain ⟨hwidth, -, -⟩ := modeFields_of_legal h
  rw [selectorIs, withSelector, fieldGet_maskedUpdate, selectorBits, fieldGet_fieldPlace hwidth]
  exact decide_eq_true rfl

end

/-! ## Scripts that keep the gate -/

/-- The operating-mode byte last seen after a transfer is answered `b`. -/
def seenMode (c : UnitCfg) (last : LastMode) (a d b : Byte) : LastMode :=
  if addrOf a = c.chip.opMode then some (if isWrite c a then (true, d) else (false, b)) else last

/-- The transfer is no write of the operating mode, or one that the gate allows. -/
def GateOpen (c : UnitCfg) (last : LastMode) (a d : Byte) : Prop :=
  addrOf a = c.chip.opMode → isWrite c a = true → gateAllows c last d = true

/-- From `last` on, the gate allows every transfer on every path through the script; what is polled is another
register. -/
def Script.KeepsGate (c : UnitCfg) : Script → LastMode → Prop
  | .finish _, _ => True
  | .assign _ p, last => p.KeepsGate c last
  | .xfer a d k, last => GateOpen c last a d ∧ ∀ b, (k b).KeepsGate c (seenMode c last a d b)
  | .poll a _ _ _ k, last => addrOf a ≠ c.chip.opMode ∧ ∀ n b, (k n b).KeepsGate c last

section
variable {c : UnitCfg} {last : LastMode} {p : Script}

@[simp] theorem keepsGate_finish (f : Finish) : (Script.finish f).KeepsGate c last := trivial
@[simp] theorem keepsGate_respondOk (result : BitVec 32) : (respondOk result).KeepsGate c last := trivial
@[simp] theorem keepsGate_raise (st : Status) (info : BitVec 32) : (raise st info).KeepsGate c last := trivial
@[simp] theorem keepsGate_assign (a : Assign) : (Script.assign a p).KeepsGate c last ↔ p.KeepsGate c last := Iff.rfl
@[simp] theorem keepsGate_ite (b : Prop) [Decidable b] (q : Script) :
    (if b then p else q).KeepsGate c last ↔ (b → p.KeepsGate c last) ∧ (¬ b → q.KeepsGate c last) := by
  split <;> simp_all

theorem keepsGate_busRead (hc : c.legal = true) (addr : Addr) (k : Byte → Script) :
    (busRead c addr k).KeepsGate c last ↔
      ∀ b, (k b).KeepsGate c (if addr = c.chip.opMode then some (false, b) else last) := by
  have hflag := writeFlag_of_legal hc
  simp [busRead_eq, Script.KeepsGate, GateOpen, seenMode, addrOf_readAddress hflag, isWrite_readAddress hflag]

theorem keepsGate_busWrite (hc : c.legal = true) (addr : Addr) (v : Byte) :
    (busWrite c addr v p).KeepsGate c last ↔
      (addr = c.chip.opMode → gateAllows c last v = true) ∧
        p.KeepsGate c (if addr = c.chip.opMode then some (true, v) else last) := by
  have hflag := writeFlag_of_legal hc
  simp [busWrite_eq, Script.KeepsGate, GateOpen, seenMode, addrOf_writeAddress hflag, isWrite_writeAddress hflag]

@[simp] theorem keepsGate_busPoll (hc : c.legal = true) {addr : Addr} (h : addr ∈ otherRegisters c.chip)
    (stop : Nat → Byte → Bool) (k : Nat → Byte → Script) :
    (busPoll c addr stop k).KeepsGate c last ↔ ∀ n b, (k n b).KeepsGate c last := by
  rw [busPoll_eq, Script.KeepsGate, addrOf_readAddress (writeFlag_of_legal hc)]
  exact and_iff_right (ne_opMode_of_legal hc h)

/-- An update of the operating mode that leaves the long-range bit passes: it is compared with its own read. -/
theorem keepsGate_modeRmw (hc : c.legal = true) {mask val : Byte} {k : Byte → Script}
    (hmask : mask &&& c.chip.longRange.mask = 0) (hval : val &&& c.chip.longRange.mask = 0)
    (hk : ∀ w last, (k w).KeepsGate c last) : (rmw c c.chip.opMode mask val k).KeepsGate c last := by
  simp only [rmw, keepsGate_busRead hc, keepsGate_busWrite hc, if_true]
  exact fun old => ⟨fun _ => gateAllows_of_same _ (maskedUpdate_and_of_disjoint hmask hval), hk _ _⟩

@[simp] theorem keepsGate_setMode (hc : c.legal = true) {sel : BitVec 3} (hp : ∀ last, p.KeepsGate c last) :
    (setMode c sel p).KeepsGate c last := by
  obtain ⟨-, hmode, -⟩ := modeFields_of_legal hc
  exact keepsGate_modeRmw hc hmode (fieldPlace_and_of_disjoint hmode _) fun _ => hp

/-- The first and the third write leave the long-range bit; the second follows the write of SLEEP
(spec/41_mode_control.md R113). -/
@[simp] theorem keepsGate_setLongRange (hc : c.legal = true) {en : Bool} (hp : ∀ last, p.KeepsGate c last) :
    (setLongRange c en p).KeepsGate c last := by
  obtain ⟨-, hmode, -⟩ := modeFields_of_legal hc
  simp only [setLongRange, keepsGate_busRead hc, keepsGate_busWrite hc, keepsGate_assign, if_true]
  refine fun m0 => ⟨fun _ => gateAllows_of_same _ ?toSleep, fun _ => gateAllows_of_sleep ?asleep _,
    fun _ => gateAllows_of_same _ ?restored, hp _⟩
  case toSleep => exact maskedUpdate_and_of_disjoint hmode (fieldPlace_and_of_disjoint hmode _)
  case asleep => exact selectorIs_withSelector hc m0 c.sel.sleep
  case restored => exact maskedUpdate_and_of_disjoint hmode (by rw [BitVec.and_assoc, hmode]; exact BitVec.and_zero)

/-! Other registers: the byte last seen stays. -/

@[simp] theorem keepsGate_readOther (hc : c.legal = true) {addr : Addr} (h : addr ∈ otherRegisters c.chip)
    (k : Byte → Script) : (busRead c addr k).KeepsGate c last ↔ ∀ b, (k b).KeepsGate c last := by
  simp [keepsGate_busRead hc, ne_opMode_of_legal hc h]

@[simp] theorem keepsGate_writeOther (hc : c.legal = true) {addr : Addr} (h : addr ∈ otherRegisters c.chip)
    (v : Byte) : (busWrite c addr v p).KeepsGate c last ↔ p.KeepsGate c last := by
  simp [keepsGate_busWrite hc, ne_opMode_of_legal hc h]

@[simp] theorem keepsGate_rmwOther (hc : c.legal = true) {addr : Addr} (h : addr ∈ otherRegisters c.chip)
    (mask val : Byte) (k : Byte → Script) :
    (rmw c addr mask val k).KeepsGate c last ↔ ∀ old, (k (maskedUpdate old mask val)).KeepsGate c last := by
  simp only [rmw, keepsGate_readOther hc h, keepsGate_writeOther hc h]

@[simp] theorem keepsGate_setImplicit (hc : c.legal = true) (b : Bool) :
    (setImplicit c b p).KeepsGate c last ↔ p.KeepsGate c last := by
  simp [setImplicit, rmwField, hc]

@[simp] theorem keepsGate_headerForSize (hc : c.legal = true) (size : Byte) :
    (headerForSize c size p).KeepsGate c last ↔ p.KeepsGate c last := by
  unfold headerForSize
  split <;> simp [hc]

@[simp] theorem keepsGate_writeFifo (hc : c.legal = true) (bytes : List Byte) :
    (writeFifo c bytes p).KeepsGate c last ↔ p.KeepsGate c last := by
  induction bytes with
  | nil => rfl
  | cons b bytes ih => exact (keepsGate_writeOther hc (by simp) b).trans ih

theorem keepsGate_readFifo (hc : c.legal = true) {k : List Byte → Script} (h : ∀ bytes, (k bytes).KeepsGate c last)
    (n : Nat) (got : List Byte) : (readFifo c k n got).KeepsGate c last := by
  induction n generalizing got with
  | zero => exact h got
  | succ n ih => exact (keepsGate_readOther hc (by simp) _).2 fun b => ih _

theorem lengthRegister_mem_otherRegisters (c : UnitCfg) (implicit : Bool) :
    lengthRegister c implicit ∈ otherRegisters c.chip := by
  cases implicit <;> simp [lengthRegister]

theorem keepsGate_extractPayload (hc : c.legal = true) (implicit : Bool) {k : List Byte → Script}
    (h : ∀ bytes, (k bytes).KeepsGate c last) : (extractPayload c implicit k).KeepsGate c last := by
  simp [extractPayload, hc, keepsGate_readOther hc (lengthRegister_mem_otherRegisters c implicit),
    keepsGate_readFifo hc h]

/-- `SETFREQ` compares the low-frequency update with its own read (spec/42_rf_config.md R121). -/
theorem keepsGate_seqSetfreq (hc : c.legal = true) (f : BitVec 32) : (seqSetfreq c f).KeepsGate c last := by
  obtain ⟨-, -, hlow⟩ := modeFields_of_legal hc
  have hbits : lowFreqBits c f &&& c.chip.longRange.mask = 0 := by
    unfold lowFreqBits
    split
    · exact hlow
    · exact BitVec.zero_and
  simp [seqSetfreq, hc, keepsGate_modeRmw hc hlow hbits]

end

/-- Every command keeps the gate: `WRREG` makes one write with nothing before it, the others leave the long-range bit to
`SetLongRange`. -/
theorem sequenceOf_keepsGate (i : Instr) (s : State) (hc : s.cfg.legal = true) :
    (sequenceOf i s).KeepsGate s.cfg none := by
  cases i with
  | init => simp [sequenceOf, seqInit, hc]
  | rdreg addr => simp [sequenceOf, seqRdreg, keepsGate_busRead hc]
  | wrreg addr value => simp [sequenceOf, seqWrreg, keepsGate_busWrite hc, gateAllows]
  | setmode sel => simp [sequenceOf, seqSetmode, hc]
  | setlr en => simp [sequenceOf, seqSetlr, hc]
  | setfreq f => exact keepsGate_seqSetfreq hc f
  | settxpwr level boost => simp [sequenceOf, seqSettxpwr, hc]
  | setbw b => simp [sequenceOf, seqSetbw, rmwField, hc]
  | setsf sf => simp [sequenceOf, seqSetsf, rmwField, hc]
  | setldr ldr => simp [sequenceOf, seqSetldr, writeLdr, rmwField, hc]
  | setcr den => simp [sequenceOf, seqSetcr, rmwField, hc]
  | setpreamble len => simp [sequenceOf, seqSetpreamble, hc]
  | setsync sw => simp [sequenceOf, seqSetsync, hc]
  | setcrc en => simp [sequenceOf, seqSetcrc, rmwField, hc]
  | setimpl en => simp [sequenceOf, seqSetimpl, hc]
  | beginpkt => simp [sequenceOf, seqBeginpkt, hc]
  | write data => simp [sequenceOf, seqWrite, hc]
  | endpkt => simp [sequenceOf, seqEndpkt, afterPoll, hc]
  | receive size => simp [sequenceOf, seqReceive, hc]
  | rxpoll size => simp [sequenceOf, seqRxpoll, hc, keepsGate_busRead hc]
  | rdpayload => exact keepsGate_extractPayload hc _ fun _ => keepsGate_finish _
  | pktrssi => cases hf : s.freqShadow <;> simp [sequenceOf, seqPktrssi, hf, hc]
  | pktsnr => simp [sequenceOf, seqPktsnr, hc]
  | onrecv en => cases en <;> simp [sequenceOf, seqOnrecv]

/-- The handler leaves the operating mode alone. -/
theorem seqHandler_keepsGate {c : UnitCfg} (hc : c.legal = true) (implicit : Bool) :
    (seqHandler c implicit).KeepsGate c none := by
  simp [seqHandler, hc, keepsGate_extractPayload hc]

/-! ## The log of a script that keeps the gate -/

/-- From `s` to `t` the gate has allowed every transfer, and `last` is the byte last seen. -/
def PassedGate (c : UnitCfg) (s t : State) (last : LastMode) : Prop :=
  ∃ new, t.log = s.log ++ new ∧ ∀ more, longRangeGate c none (new ++ more) = longRangeGate c last more

theorem longRangeGate_cons_quiet (c : UnitCfg) (last : LastMode) {e : Event} (he : isTransfer e = false)
    (more : List Event) : longRangeGate c last (e :: more) = longRangeGate c last more := by
  cases e with
  | xfer a d r => cases he
  | abandoned a d => cases he
  | _ => rfl

theorem longRangeGate_quiet (c : UnitCfg) (last : LastMode) {new : List Event} (h : ∀ e ∈ new, isTransfer e = false)
    (more : List Event) : longRangeGate c last (new ++ more) = longRangeGate c last more := by
  induction new with
  | nil => rfl
  | cons e new ih =>
    obtain ⟨he, hnew⟩ := List.forall_mem_cons.1 h
    exact (longRangeGate_cons_quiet c last he _).trans (ih hnew)

section
variable {c : UnitCfg} {last last' : LastMode} {a d b : Byte} {p : Script} {s t u : State}

theorem GateOpen.xfer_byte (h : GateOpen c last a d) (more : List Event) :
    longRangeGate c last (.xfer a d (.byte b) :: more) = longRangeGate c (seenMode c last a d b) more := by
  rw [longRangeGate, seenMode]
  split
  · split <;> simp_all [GateOpen]
  · rfl

/-- A failed write counts as made, a failed read shows nothing. -/
theorem GateOpen.xfer_error (h : GateOpen c last a d) :
    ∃ last', ∀ more, longRangeGate c last (.xfer a d .error :: more) = longRangeGate c last' more := by
  by_cases hmode : addrOf a = c.chip.opMode ∧ isWrite c a = true
  · exact ⟨some (true, d), fun more => by simp [longRangeGate, hmode, h hmode.1 hmode.2]⟩
  · exact ⟨last, fun more => by rw [longRangeGate]; split <;> simp_all⟩

theorem GateOpen.abandoned (h : GateOpen c last a d) (more : List Event) :
    longRangeGate c last (.abandoned a d :: more) = longRangeGate c last more := by
  rw [longRangeGate]
  split <;> simp_all [GateOpen]

theorem PassedGate.refl (c : UnitCfg) (s : State) : PassedGate c s s none := ⟨[], by simp, fun _ => rfl⟩

theorem PassedGate.quietly (h : PassedGate c s t last) (h' : LogGrows 0 t u) : PassedGate c s u last := by
  obtain ⟨new, hlog, hgate⟩ := h
  obtain ⟨-, new', hlog', hcount, -⟩ := h'
  have hquiet : ∀ e ∈ new', isTransfer e = false := by simpa using hcount
  refine ⟨new ++ new', by rw [hlog', hlog, List.append_assoc], fun more => ?_⟩
  rw [List.append_assoc, hgate, longRangeGate_quiet c last hquiet]

theorem PassedGate.event {e : Event} (h : PassedGate c s t last)
    (he : ∀ more, longRangeGate c last (e :: more) = longRangeGate c last' more) (hlog : u.log = t.log ++ [e]) :
    PassedGate c s u last' := by
  obtain ⟨new, hnew, hgate⟩ := h
  refine ⟨new ++ [e], by rw [hlog, hnew, List.append_assoc], fun more => ?_⟩
  rw [List.append_assoc, hgate, List.singleton_append, he]

theorem PassedGate.gate (h : PassedGate c s t last) :
    ∃ new, t.log = s.log ++ new ∧ longRangeGate c none new = true := by
  obtain ⟨new, hlog, hgate⟩ := h
  exact ⟨new, hlog, by simpa [longRangeGate] using hgate []⟩

theorem Script.KeepsGate.skip (h : p.KeepsGate c last) : p.skip.KeepsGate c last := by
  induction p with
  | assign a p ih => exact ih h
  | _ => exact h

/-- The next transfer passes, and so does what follows its answer. -/
theorem Script.KeepsGate.transfer (h : p.KeepsGate c last) (hp : p.skip.request = some (a, d)) :
    GateOpen c last a d ∧ ∀ b, (p.skip.feed b).KeepsGate c (seenMode c last a d b) := by
  induction p with
  | finish f => cases hp
  | assign _ p ih => exact ih h hp
  | xfer a d k => cases hp; exact h
  | poll a d stop n k =>
    cases hp
    obtain ⟨hother, hk⟩ := h
    refine ⟨fun hmode => absurd hmode hother, fun b => ?_⟩
    rw [Script.skip, feed_poll, seenMode, if_neg hother]
    split
    · exact hk _ b
    · exact ⟨hother, hk⟩

/-- The induction over the run: the script that is left keeps the gate from the byte last seen. -/
theorem passedGate_runScript (hp : p.KeepsGate c last) (ht : PassedGate c s t last) (es : List Input) :
    ∃ last, PassedGate c s (runScript es p.skip t) last := by
  refine runScript_induct
    (Inv := fun q u => ∃ p last, q = p.skip ∧ p.KeepsGate c last ∧ PassedGate c s u last)
    (Post := fun u => ∃ last, PassedGate c s u last)
    ?stop ?wait ?byte ?error ?rst ?edge ?command ?take es p.skip t ⟨p, last, rfl, hp, ht⟩
  case stop =>
    rintro _ u es ⟨p, last, rfl, -, hu⟩ -
    exact ⟨last, (hu.quietly (logGrows_inputs u es)).quietly (logGrows_close _ _)⟩
  case wait =>
    rintro _ u - ⟨p, last, rfl, -, hu⟩ -
    exact ⟨last, hu.quietly (logGrows_inputs u [])⟩
  case byte =>
    rintro _ u a d b ⟨p, last, rfl, hp, hu⟩ hreq
    obtain ⟨hopen, hnext⟩ := hp.transfer hreq
    have hmade : PassedGate c s (u.transferred a d b) (seenMode c last a d b) := hu.event hopen.xfer_byte rfl
    exact ⟨_, _, settle_fst _ _, hnext b, hmade.quietly (logGrows_settle _ _)⟩
  case error =>
    rintro _ u a d es ⟨p, last, rfl, hp, hu⟩ hreq
    obtain ⟨last', hfailed⟩ := (hp.transfer hreq).1.xfer_error
    have hmade : PassedGate c s { u with inputs := es, log := u.log ++ [.xfer a d .error] } last' :=
      hu.event hfailed rfl
    exact ⟨last', hmade.quietly (logGrows_busFail _)⟩
  case rst =>
    rintro _ u a d es ⟨p, last, rfl, hp, hu⟩ hreq
    have hleft : PassedGate c s { u with inputs := es, log := u.log ++ [.abandoned a d] } last :=
      hu.event (hp.transfer hreq).1.abandoned rfl
    exact ⟨last, hleft.quietly (logGrows_applyReset _)⟩
  case edge =>
    rintro _ u ⟨p, last, hq, hp, hu⟩
    exact ⟨p, last, hq, hp, hu.quietly (logGrows_latchEdge u)⟩
  case command =>
    rintro _ u w bytes ⟨p, last, hq, hp, hu⟩
    exact ⟨p, last, hq, hp, hu.quietly (logGrows_present u w bytes)⟩
  case take =>
    rintro _ u ⟨p, last, hq, hp, hu⟩
    exact ⟨p, last, hq, hp, hu.quietly (logGrows_takeCallback u)⟩

theorem logGrows_begun (i : Instr) (s : State) : LogGrows 0 s (begun i s) :=
  (logGrows_seq s _).then_quietly (logGrows_settle _ _)

theorem passedGate_exec {i : Instr} (hc : s.cfg.legal = true) (h : exec i s = .next t) :
    ∃ last, PassedGate s.cfg s t last := by
  rcases exec_refused_or_runs i s with ⟨st, href⟩ | hrun
  · obtain rfl := Host.Outcome.next.inj (h.symm.trans (href s.inputs))
    exact ⟨none, (PassedGate.refl _ s).quietly (logGrows_respond s st 0 [])⟩
  · obtain rfl := Host.Outcome.next.inj (h.symm.trans (hrun s.inputs))
    exact passedGate_runScript (sequenceOf_keepsGate i s hc) ((PassedGate.refl _ s).quietly (logGrows_begun i s)) _

theorem passedGate_runHandler (hc : s.cfg.legal = true) : ∃ last, PassedGate s.cfg s (runHandler s) last := by
  rw [runHandler_eq]
  exact passedGate_runScript (seqHandler_keepsGate hc s.implicitShadow)
    ((PassedGate.refl _ s).quietly (logGrows_enterHandler s)) _

end

end Sys2Proof.Machine
end

section
/-! CERTIFICATES. The long-range bit changes only behind a write that selects SLEEP (spec/41_mode_control.md R114). -/

namespace Sys2Proof.Machine

open Sys2Proof

/-- Settles O50: the script of each command, and that of the handler, keeps the gate, so the log its run makes
passes. -/
theorem longRangeGateHolds : Obligations.LongRangeGateHolds := by
  unfold Obligations.LongRangeGateHolds
  refine ⟨fun i s t hc h => ?_, fun s hc => ?_⟩
  · obtain ⟨_, hpassed⟩ := passedGate_exec hc h
    exact hpassed.gate
  · obtain ⟨_, hpassed⟩ := passedGate_runHandler hc
    exact hpassed.gate

end Sys2Proof.Machine
end

section
/-! SUPPORT. The log of a command that ended with `OK`: every transfer was answered with a byte, so the log gained the
events of one path through the script, from its start to its end, whatever else landed on the way
(spec/20_memory.md R40, R57). -/

namespace Sys2Proof.Machine

open Sys2Proof

/-! ## The paths through a script -/

/-- What an assignment puts on an output port. -/
def Assign.events : Assign → List Event
  | .arm => [.arm]
  | .disarm => [.disarm]
  | .ustate _ | .modeShadow _ | .modeSelector _ | .freqShadow _ | .implicitShadow _ | .cbArmed _ | .irqPending _ => []

/-- What the end of a sequence puts on an output port. -/
def Finish.events : Finish → List Event
  | .respond st result data => [.response st result data]
  | .callback bytes => [.callback (.payload bytes)]
  | .silent => []

/-- With every transfer answered by a byte the script can make exactly these events, from its start to its end. -/
inductive Script.Makes : Script → List Event → Prop
  | finish (f : Finish) : (Script.finish f).Makes f.events
  | assign {a : Assign} {p : Script} {events : List Event} (h : p.Makes events) :
      (Script.assign a p).Makes (a.events ++ events)
  | xfer {a d b : Byte} {k : Byte → Script} {events : List Event} (h : (k b).Makes events) :
      (Script.xfer a d k).Makes (.xfer a d (.byte b) :: events)
  | poll {a d b : Byte} {stop : Nat → Byte → Bool} {n : Nat} {k : Nat → Byte → Script} {events : List Event}
      (h : ((Script.poll a d stop n k).feed b).Makes events) :
      (Script.poll a d stop n k).Makes (.xfer a d (.byte b) :: events)

section
variable {p : Script} {events : List Event} {c : UnitCfg}

theorem apply_log (a : Assign) (s : State) : (a.apply s).log = s.log ++ a.events := by
  cases a <;> simp [Assign.events, Assign.apply]

theorem complete_log (f : Finish) (s : State) : (f.complete s).log = s.log ++ f.events := by
  cases f <;> simp [Finish.events, Finish.complete]

@[simp] theorem makes_finish {f : Finish} : (Script.finish f).Makes events ↔ events = f.events :=
  ⟨fun h => by cases h; rfl, fun h => h ▸ .finish f⟩

@[simp] theorem makes_assign {a : Assign} :
    (Script.assign a p).Makes events ↔ ∃ rest, p.Makes rest ∧ events = a.events ++ rest :=
  ⟨fun h => by cases h with | assign h => exact ⟨_, h, rfl⟩, fun ⟨_, h, he⟩ => he ▸ .assign h⟩

theorem makes_xfer {a d : Byte} {k : Byte → Script} :
    (Script.xfer a d k).Makes events ↔ ∃ b rest, (k b).Makes rest ∧ events = .xfer a d (.byte b) :: rest :=
  ⟨fun h => by cases h with | xfer h => exact ⟨_, _, h, rfl⟩, fun ⟨_, _, h, he⟩ => he ▸ .xfer h⟩

@[simp] theorem makes_busRead {addr : Addr} {k : Byte → Script} :
    (busRead c addr k).Makes events ↔ ∃ b rest, (k b).Makes rest ∧ events = readEvent c addr b :: rest :=
  makes_xfer

@[simp] theorem makes_busWrite {addr : Addr} {v : Byte} :
    (busWrite c addr v p).Makes events ↔ ∃ x rest, p.Makes rest ∧ events = writeEvent c addr v x :: rest :=
  makes_xfer

@[simp] theorem makes_rmw {addr : Addr} {mask val : Byte} {k : Byte → Script} :
    (rmw c addr mask val k).Makes events ↔
      ∃ old x rest, (k (maskedUpdate old mask val)).Makes rest ∧ events = rmwEvents c addr mask val old x ++ rest := by
  simp [rmw, rmwEvents, maskedUpdate]

@[simp] theorem makes_respondOk {result : BitVec 32} : (respondOk result).Makes events ↔ events = [okEvent result] :=
  makes_finish

/-- An answered transfer goes before what the rest of the script makes. -/
theorem makes_of_feed {a d b : Byte} (hp : p.skip.request = some (a, d)) (h : (p.skip.feed b).Makes events) :
    p.skip.Makes (.xfer a d (.byte b) :: events) := by
  induction p with
  | finish f => cases hp
  | assign a p ih => exact ih hp h
  | xfer a d k => cases hp; exact .xfer h
  | poll a d stop n k => cases hp; exact .poll h

end

/-! ## The run of a command that ends with `OK` -/

/-- The unit is idle behind an `OK` response, the condition of `runToOk`. -/
def EndedOk (t : State) : Prop := t.seq = .idle ∧ ∃ r data, t.log.getLast? = some (.response .ok r data)

theorem not_endedOk_respond (s : State) {st : Status} (hst : st ≠ .ok) : ¬ EndedOk (s.respond st 0 []) := by
  rintro ⟨-, r, data, h⟩
  simp [hst] at h

theorem not_endedOk_applyReset (s : State) : ¬ EndedOk s.applyReset := by
  rintro ⟨-, r, data, h⟩
  simp at h

/-- From `s` the script `p` has come to `t`, and `q` is left of it: what `q` makes completes a path through `p`. -/
structure Partway (p : Script) (s : State) (q : Script) (t : State) : Prop where
  cfg : t.cfg = s.cfg
  busy : ∃ i trail, t.seq = .fg i trail
  made : ∃ before, t.log = s.log ++ before ∧ ∀ events, q.Makes events → p.Makes (before ++ events)

section
variable {p q : Script} {i : Instr} {is : List Instr} {s t u : State}

theorem Partway.start (p : Script) (hbusy : ∃ i trail, s.seq = .fg i trail) : Partway p s p s :=
  ⟨rfl, hbusy, [], by simp, fun _ h => h⟩

theorem Partway.of_same (h : Partway p s q t) (hcfg : u.cfg = t.cfg) (hseq : u.seq = t.seq) (hlog : u.log = t.log) :
    Partway p s q u := by
  obtain ⟨hcfg', hbusy, hmade⟩ := h
  exact ⟨hcfg.trans hcfg', by rwa [hseq], by rwa [hlog]⟩

theorem Partway.settle (h : Partway p s q t) : Partway p s q.skip (q.settle t).2 := by
  induction q generalizing t with
  | assign a q ih =>
    obtain ⟨hcfg, hbusy, before, hlog, hmakes⟩ := h
    refine ih ⟨?_, ?_, before ++ a.events, ?_, fun events hq => ?_⟩
    · rw [← hcfg]; cases a <;> rfl
    · obtain ⟨i, trail, hseq⟩ := hbusy
      exact ⟨i, trail, by rw [← hseq]; cases a <;> rfl⟩
    · rw [apply_log, hlog, List.append_assoc]
    · rw [List.append_assoc]
      exact hmakes _ (.assign hq)
  | _ => exact h

theorem Partway.transferred {a d b : Byte} (h : Partway p s q.skip t) (hq : q.skip.request = some (a, d)) :
    Partway p s (q.skip.feed b) (t.transferred a d b) := by
  obtain ⟨hcfg, ⟨i, trail, hseq⟩, before, hlog, hmakes⟩ := h
  refine ⟨hcfg, ⟨i, trail ++ [b], by simp [hseq, Seq.push]⟩, before ++ [.xfer a d (.byte b)], ?_, fun events hf => ?_⟩
  · rw [transferred_log, hlog, List.append_assoc]
  · rw [List.append_assoc]
    exact hmakes _ (makes_of_feed hq hf)

/-- A script that has ended has made the events of a path through it. -/
theorem Partway.close (h : Partway p s q t) (es : List Input) (hok : EndedOk (q.close { t with inputs := es })) :
    (q.close { t with inputs := es }).cfg = s.cfg ∧
      ∃ events, p.Makes events ∧ (q.close { t with inputs := es }).log = s.log ++ events := by
  obtain ⟨hcfg, ⟨i, trail, hseq⟩, before, hlog, hmakes⟩ := h
  cases q with
  | finish f =>
    refine ⟨(unwritten_complete f _).cfg.trans hcfg, before ++ f.events, hmakes _ (.finish f), ?_⟩
    rw [Script.close, complete_log, ← List.append_assoc, ← hlog]
  | _ => exact absurd (hseq.symm.trans hok.1) nofun

/-- Of all the ways a run can end only the end of the script is behind an `OK`. -/
theorem Partway.completes (h : Partway p s q.skip t) (es : List Input) (hok : EndedOk (runScript es q.skip t)) :
    (runScript es q.skip t).cfg = s.cfg ∧
      ∃ events, p.Makes events ∧ (runScript es q.skip t).log = s.log ++ events := by
  refine runScript_induct
    (Inv := fun r u => ∃ q, r = q.skip ∧ Partway p s q.skip u)
    (Post := fun u => EndedOk u → u.cfg = s.cfg ∧ ∃ events, p.Makes events ∧ u.log = s.log ++ events)
    ?stop ?wait ?byte ?error ?rst ?edge ?command ?take es q.skip t ⟨q, rfl, h⟩ hok
  case stop =>
    rintro r u es ⟨q, rfl, h⟩ - hok
    exact h.close es hok
  case wait =>
    rintro r u - ⟨q, rfl, -, ⟨i, trail, hseq⟩, -⟩ - ⟨hidle, -⟩
    exact absurd (hseq.symm.trans hidle) nofun
  case byte =>
    rintro r u a d b ⟨q, rfl, h⟩ hreq
    exact ⟨q.skip.feed b, settle_fst _ _, (h.transferred hreq).settle⟩
  case error =>
    rintro r u a d es ⟨q, rfl, -, ⟨i, trail, hseq⟩, -⟩ - hok
    simp only [State.busFail, hseq] at hok
    exact absurd hok (not_endedOk_respond _ (by decide))
  case rst =>
    rintro r u a d es - - hok
    exact absurd hok (not_endedOk_applyReset _)
  case edge =>
    rintro r u ⟨q, hq, h⟩
    exact ⟨q, hq, h.of_same (by simp) (by simp) (by simp)⟩
  case command =>
    rintro r u w bytes ⟨q, hq, h⟩
    exact ⟨q, hq, h.of_same rfl rfl rfl⟩
  case take =>
    rintro r u ⟨q, hq, h⟩
    exact ⟨q, hq, h.of_same rfl rfl rfl⟩

/-- A command that ended with `OK` was in range, and its log is a path through its script. -/
theorem makes_of_exec (h : exec i s = .next t) (hok : EndedOk t) :
    i.wf s.cfg = true ∧ t.cfg = s.cfg ∧ ∃ events, (sequenceOf i s).Makes events ∧ t.log = s.log ++ events := by
  rw [exec_eq] at h
  rcases runCommand_cases i (sequenceOf i s) s with ⟨-, he⟩ | ⟨-, -, he⟩ | ⟨hwf, -, he⟩ <;> rw [he] at h <;> cases h
  · exact absurd hok (not_endedOk_respond _ (by decide))
  · exact absurd hok (not_endedOk_respond _ (by decide))
  · rw [startScript_eq] at hok ⊢
    exact ⟨hwf, (Partway.start (s := { s with seq := .fg i [] }) _ ⟨i, [], rfl⟩).settle.completes _ hok⟩

/-- One command of a run of several: what it adds to the log, and the run of the others. -/
theorem makes_of_runToOk_cons (h : runToOk (i :: is) s = some t) :
    i.wf s.cfg = true ∧ ∃ u events, (sequenceOf i s).Makes events ∧ u.cfg = s.cfg ∧ u.log = s.log ++ events ∧
      runToOk is u = some t := by
  obtain ⟨u, hexec⟩ := exec_answers i s
  simp only [runToOk, hexec] at h
  split at h
  next r data hidle hlast =>
    obtain ⟨hwf, hcfg, events, hmakes, hlog⟩ := makes_of_exec hexec ⟨hidle, r, data, hlast⟩
    exact ⟨hwf, u, events, hmakes, hcfg, hlog, h⟩
  next => cases h

end

end Sys2Proof.Machine
end

section
/-! SUPPORT. What a log tells of the chip, transfer by transfer: the registers a unit with legal parameters reads and
writes, and what the premises ask of a configuration register (spec/20_memory.md R47). -/

namespace Sys2Proof.Machine

open Sys2Proof

section
variable {c : UnitCfg} {v : ChipView} {addr : Addr} {d r x : Byte} {result : BitVec 32} {events more : List Event}

/-! ## Logs -/

theorem chipView_append (c : UnitCfg) (log events : List Event) :
    chipView c (log ++ events) = events.foldl (ChipView.observe c) (chipView c log) :=
  List.foldl_append

theorem chipHonest_append :
    chipHonest c v (events ++ more) =
      (chipHonest c v events && chipHonest c (events.foldl (ChipView.observe c) v) more) := by
  induction events generalizing v with
  | nil => rfl
  | cons e events ih =>
    cases e with
    | xfer a d r => cases r <;> simp only [List.cons_append, chipHonest, ih, List.foldl_cons, Bool.and_assoc]
    | _ => exact ih

/-- A log that begins as an honest one is honest behind it. -/
theorem chipHonest_of_append {log : List Event} (h : chipHonest c .unknown (log ++ events) = true) :
    chipHonest c (chipView c log) events = true := by
  rw [chipHonest_append, Bool.and_eq_true] at h
  exact h.2

theorem observe_readEvent (hc : c.legal = true) :
    v.observe c (readEvent c addr r) = v.answered c addr r := by
  have hflag := writeFlag_of_legal hc
  simp [readEvent, ChipView.observe, isWrite_readAddress hflag, addrOf_readAddress hflag]

theorem observe_writeEvent (hc : c.legal = true) :
    v.observe c (writeEvent c addr d x) = v.written c addr d := by
  have hflag := writeFlag_of_legal hc
  simp [writeEvent, ChipView.observe, isWrite_writeAddress hflag, addrOf_writeAddress hflag]

theorem rmwEvents_eq (c : UnitCfg) (addr : Addr) (mask val old x : Byte) :
    rmwEvents c addr mask val old x = [readEvent c addr old, writeEvent c addr (maskedUpdate old mask val) x] := rfl

@[simp] theorem observe_okEvent : v.observe c (okEvent result) = v := rfl

theorem chipHonest_readEvent (hc : c.legal = true) :
    chipHonest c v (readEvent c addr r :: more) =
      (answerAllowed c v addr r && chipHonest c (v.answered c addr r) more) := by
  have hflag := writeFlag_of_legal hc
  rw [← observe_readEvent hc]
  simp [readEvent, chipHonest, isWrite_readAddress hflag, addrOf_readAddress hflag]

theorem chipHonest_writeEvent (hc : c.legal = true) :
    chipHonest c v (writeEvent c addr d x :: more) = chipHonest c (v.written c addr d) more := by
  have hflag := writeFlag_of_legal hc
  rw [← observe_writeEvent hc (x := x)]
  simp [writeEvent, chipHonest, isWrite_writeAddress hflag]

@[simp] theorem chipHonest_okEvent : chipHonest c v (okEvent result :: more) = chipHonest c v more := rfl

/-! ## Configuration registers -/

theorem addresses_nodup_of_legal (hc : c.legal = true) : c.chip.addresses.Nodup := by
  simp only [UnitCfg.legal, ChipMap.legal, Bool.and_eq_true, decide_eq_true_eq] at hc
  tauto

/-- A configuration register is none of the four registers the chip view keeps apart. -/
theorem configRegister_ne (hc : c.legal = true) (h : addr ∈ configRegisters c.chip) :
    addr ≠ c.chip.fifo ∧ addr ≠ c.chip.fifoAddrPtr ∧ addr ≠ c.chip.irqFlags ∧ addr ≠ c.chip.opMode := by
  have hnodup := addresses_nodup_of_legal hc
  simp only [ChipMap.addresses, List.nodup_cons, List.mem_cons, not_or] at hnodup
  simp only [configRegisters, List.mem_cons, List.not_mem_nil, or_false] at h
  grind

theorem written_configRegister (hc : c.legal = true) (h : addr ∈ configRegisters c.chip) :
    v.written c addr d = { v with stored := v.stored.write addr.toNat d } := by
  obtain ⟨hfifo, hptr, hflags, hmode⟩ := configRegister_ne hc h
  simp [ChipView.written, hfifo, hptr, hflags, hmode, h]

theorem answered_configRegister (hc : c.legal = true) (h : addr ∈ configRegisters c.chip) :
    v.answered c addr r = v := by
  obtain ⟨hfifo, -, hflags, hmode⟩ := configRegister_ne hc h
  simp [ChipView.answered, hfifo, hflags, hmode]

/-- In LoRa an honest chip answers the byte stored in a configuration register. -/
theorem eq_of_answerAllowed {b : Byte} (hc : c.legal = true) (h : addr ∈ configRegisters c.chip)
    (hfaulted : v.faulted = false) (hlora : inLoRa c v.opMode = true) (hstored : v.stored.read addr.toNat = some b)
    (hallowed : answerAllowed c v addr r = true) : r = b := by
  obtain ⟨hfifo, hptr, hflags, hmode⟩ := configRegister_ne hc h
  simpa [answerAllowed, hfaulted, hlora, hfifo, hptr, hflags, hmode, h, hstored, agrees] using hallowed

/-! ## The operating mode -/

/-- Two selectors of one byte are the same. -/
theorem selectorIs_unique {a b : BitVec 3} {m : Byte} (ha : selectorIs c a m = true) (hb : selectorIs c b m = true) :
    a = b := by
  have hwide : a.setWidth 8 = b.setWidth 8 := (of_decide_eq_true ha).symm.trans (of_decide_eq_true hb)
  simpa using congrArg (BitVec.setWidth 3) hwide

theorem selectorIs_congr {a : BitVec 3} {m w : Byte} (h : fieldGet c.chip.mode w = fieldGet c.chip.mode m) :
    selectorIs c a w = selectorIs c a m := by
  rw [selectorIs, selectorIs, h]

/-- A mode that the chip does not leave by itself is the mode an honest chip shows next
(spec/70_reset_and_hazards.md R222). -/
theorem mode_stays {prev : Byte} (hc : c.legal = true)
    (hsteady : ∃ sel ∈ [c.sel.sleep, c.sel.standby, c.sel.rxCont], selectorIs c sel prev = true)
    (hallowed : selectorAllowed c prev r = true) : fieldGet c.chip.mode r = fieldGet c.chip.mode prev := by
  obtain ⟨sel, hsel, hprev⟩ := hsteady
  have hnodup : c.sel.codes.Nodup := by
    simp only [UnitCfg.legal, Bool.and_eq_true, decide_eq_true_eq] at hc
    tauto
  have hother : ∀ sel' ∈ [c.sel.tx, c.sel.rxSingle, c.sel.fsTx, c.sel.fsRx, c.sel.cad],
      selectorIs c sel' prev = false := by
    intro sel' hsel'
    by_contra hne
    obtain rfl := selectorIs_unique hprev (Bool.eq_true_of_not_eq_false hne)
    simp only [Selectors.codes, List.nodup_cons, List.mem_cons, List.not_mem_nil, or_false, not_or] at hnodup hsel hsel'
    grind
  simpa [selectorAllowed, hother] using hallowed

theorem answered_opMode (hc : c.legal = true) : v.answered c c.chip.opMode r = v.modeRead c r := by
  have hfifo : c.chip.fifo ≠ c.chip.opMode := ne_opMode_of_legal hc (by simp)
  have hflags : c.chip.irqFlags ≠ c.chip.opMode := ne_opMode_of_legal hc (by simp)
  simp [ChipView.answered, hfifo.symm, hflags.symm]

theorem written_opMode (hc : c.legal = true) : v.written c c.chip.opMode d = v.modeWritten c d := by
  have hfifo : c.chip.fifo ≠ c.chip.opMode := ne_opMode_of_legal hc (by simp)
  have hptr : c.chip.fifoAddrPtr ≠ c.chip.opMode := ne_opMode_of_legal hc (by simp)
  have hflags : c.chip.irqFlags ≠ c.chip.opMode := ne_opMode_of_legal hc (by simp)
  simp [ChipView.written, hfifo.symm, hptr.symm, hflags.symm]

/-- An honest chip shows a selector that may follow the one known. -/
theorem selectorAllowed_of_answerAllowed {prev : Byte} (hfaulted : v.faulted = false) (hknown : v.opMode = some prev)
    (hallowed : answerAllowed c v c.chip.opMode r = true) : selectorAllowed c prev r = true := by
  simp only [answerAllowed, hfaulted, hknown, if_true, Bool.false_or, Bool.and_eq_true] at hallowed
  exact hallowed.2

/-- Reading a mode that shows no loss leaves what is stored. -/
theorem modeRead_stored (h : showsLoss c v.opMode r = false) : (v.modeRead c r).stored = v.stored := by
  simp only [ChipView.modeRead, h]
  split
  · rfl
  · split <;> rfl

/-- Writing the mode back with its selector and its long-range bit leaves what is stored. -/
theorem modeWritten_stored {m w : Byte} (hknown : v.opMode = some m)
    (hmode : fieldGet c.chip.mode w = fieldGet c.chip.mode m)
    (hlong : w &&& c.chip.longRange.mask = m &&& c.chip.longRange.mask) : (v.modeWritten c w).stored = v.stored := by
  have hsleep : entersSleep c v.opMode w = false := by simp [entersSleep, hknown, selectorIs_congr hmode]
  have hchange : mayChangeLongRange c v.opMode w = false := by
    simp [mayChangeLongRange, longRangeChanges, hknown, hlong]
  simp [ChipView.modeWritten, hsleep, hchange]

end

end Sys2Proof.Machine
end

section
/-! SUPPORT. The frequency code (spec/42_rf_config.md R120): its value in range, its step at the source's crystal, and its
three bytes. -/

namespace Sys2Proof.Machine

open Sys2Proof

section
variable {c : UnitCfg} {f : BitVec 32}

@[simp] theorem wf_setfreq : (Instr.setfreq f).wf c = c.freqFits f := rfl

/-- In range nothing is cut off. -/
theorem freqCode_toNat (h : c.freqFits f = true) :
    (freqCode c f).toNat = f.toNat * 2 ^ c.frfShift / c.fxoscHz := by
  rw [freqCode, BitVec.toNat_ofNat, Nat.mod_eq_of_lt (of_decide_eq_true h)]

/-- At the source's crystal the quotient is that of spec/42_rf_config.md R120 with the common factor 2^11 taken out. -/
theorem freqQuotient_eq (hx : c.fxoscHz = 32000000) (hs : c.frfShift = 19) (n : Nat) :
    n * 2 ^ c.frfShift / c.fxoscHz = n * 256 / 15625 := by
  rw [hx, hs]
  omega

theorem freqQuotient_within_step (n : Nat) :
    n * 256 / 15625 * 15625 ≤ n * 256 ∧ n * 256 < (n * 256 / 15625 + 1) * 15625 := by
  omega

/-- The three bytes of a code of at most 24 bits are all of it. -/
theorem bytes_of_code {w : Nat} (hw : w ≤ 24) (code : BitVec w) :
    ((code.extractLsb' 16 8).setWidth 32).toNat * 65536 + ((code.extractLsb' 8 8).setWidth 32).toNat * 256 +
      ((code.extractLsb' 0 8).setWidth 32).toNat = code.toNat := by
  have hlt : code.toNat < 2 ^ 24 := code.isLt.trans_le (Nat.pow_le_pow_right (by decide) hw)
  simp only [BitVec.toNat_setWidth, BitVec.extractLsb'_toNat, Nat.shiftRight_eq_div_pow]
  omega

theorem frfW_le_of_legal (hc : c.legal = true) : c.frfW ≤ 24 := by
  simp only [UnitCfg.legal, UnitCfg.legalWidths, Bool.and_eq_true, decide_eq_true_eq] at hc
  tauto

end

end Sys2Proof.Machine
end

section
/-! CERTIFICATES. Reading the frequency back (spec/42_rf_config.md R120, R121): `SETFREQ` leaves its three bytes in the
chip, and an honest chip answers them. -/

namespace Sys2Proof.Machine

open Sys2Proof

section
variable {c : UnitCfg} {v : ChipView} {f : BitVec 32} {m x x1 x2 x3 : Byte} {events : List Event}

/-! ## What `SETFREQ` leaves in the chip -/

/-- The transfers of `SETFREQ` that write the code. -/
def frfWrites (c : UnitCfg) (f : BitVec 32) (x1 x2 x3 : Byte) : List Event :=
  [writeEvent c c.chip.frfMsb ((freqCode c f).extractLsb' 16 8) x1,
   writeEvent c c.chip.frfMid ((freqCode c f).extractLsb' 8 8) x2,
   writeEvent c c.chip.frfLsb ((freqCode c f).extractLsb' 0 8) x3]

/-- The two transfers of `SETFREQ` that update the operating mode. -/
def lowFreqUpdate (c : UnitCfg) (f : BitVec 32) (m x : Byte) : List Event :=
  rmwEvents c c.chip.opMode c.chip.lowFreq.mask (lowFreqBits c f) m x

/-- The events of a `SETFREQ` that ends with `OK`. -/
def setfreqEvents (c : UnitCfg) (f : BitVec 32) (x1 x2 x3 m x : Byte) : List Event :=
  frfWrites c f x1 x2 x3 ++ (lowFreqUpdate c f m x ++ [okEvent 0])

theorem makes_seqSetfreq :
    (seqSetfreq c f).Makes events ↔ ∃ x1 x2 x3 m x, events = setfreqEvents c f x1 x2 x3 m x := by
  simp [seqSetfreq, setfreqEvents, frfWrites, lowFreqUpdate, Assign.events]

/-- What the three writes store. -/
def withCode (c : UnitCfg) (f : BitVec 32) (stored : Memory) : Memory :=
  ((stored.write c.chip.frfMsb.toNat ((freqCode c f).extractLsb' 16 8)).write
    c.chip.frfMid.toNat ((freqCode c f).extractLsb' 8 8)).write
      c.chip.frfLsb.toNat ((freqCode c f).extractLsb' 0 8)

/-- The three bytes of the code are known to be stored in the frequency registers. -/
structure HoldsCode (c : UnitCfg) (f : BitVec 32) (stored : Memory) : Prop where
  msb : stored.read c.chip.frfMsb.toNat = some ((freqCode c f).extractLsb' 16 8)
  mid : stored.read c.chip.frfMid.toNat = some ((freqCode c f).extractLsb' 8 8)
  lsb : stored.read c.chip.frfLsb.toNat = some ((freqCode c f).extractLsb' 0 8)

theorem frfRegisters_configRegisters (m : ChipMap) :
    m.frfMsb ∈ configRegisters m ∧ m.frfMid ∈ configRegisters m ∧ m.frfLsb ∈ configRegisters m := by
  simp [configRegisters]

theorem frfRegisters_distinct (hc : c.legal = true) :
    (c.chip.frfMsb ≠ c.chip.frfMid ∧ c.chip.frfMsb ≠ c.chip.frfLsb) ∧ c.chip.frfMid ≠ c.chip.frfLsb := by
  have hnodup : [c.chip.frfMsb, c.chip.frfMid, c.chip.frfLsb].Nodup :=
    (addresses_nodup_of_legal hc).sublist (((List.sublist_append_left _ _).cons _).cons _)
  simpa using hnodup

theorem observe_frfWrites (hc : c.legal = true) :
    (frfWrites c f x1 x2 x3).foldl (ChipView.observe c) v = { v with stored := withCode c f v.stored } := by
  obtain ⟨hmsb, hmid, hlsb⟩ := frfRegisters_configRegisters c.chip
  simp only [frfWrites, withCode, List.foldl_cons, List.foldl_nil, observe_writeEvent hc,
    written_configRegister hc hmsb, written_configRegister hc hmid, written_configRegister hc hlsb]

theorem holdsCode_withCode (hc : c.legal = true) (stored : Memory) : HoldsCode c f (withCode c f stored) := by
  obtain ⟨⟨hmsbMid, hmsbLsb⟩, hmidLsb⟩ := frfRegisters_distinct hc
  have toNat_ne {a b : Addr} (h : a ≠ b) : a.toNat ≠ b.toNat := fun heq => h (BitVec.eq_of_toNat_eq heq)
  constructor
  · rw [withCode, Memory.read_write_other _ _ (toNat_ne hmsbLsb), Memory.read_write_other _ _ (toNat_ne hmsbMid),
      Memory.read_write_same]
  · rw [withCode, Memory.read_write_other _ _ (toNat_ne hmidLsb), Memory.read_write_same]
  · exact Memory.read_write_same _ _ _

theorem lowFreq_and_mode_of_legal (hc : c.legal = true) : c.chip.lowFreq.mask &&& c.chip.mode.mask = 0 := by
  simp only [UnitCfg.legal, ChipMap.legal, Field.disjoint, List.all_cons, Bool.and_eq_true, decide_eq_true_eq] at hc
  tauto

theorem lowFreqBits_and_of_disjoint {other : Byte} (h : c.chip.lowFreq.mask &&& other = 0) :
    lowFreqBits c f &&& other = 0 := by
  unfold lowFreqBits
  split
  · exact h
  · exact BitVec.zero_and

/-- The view is that of a mode the chip does not leave by itself, where it shows the mode
(spec/70_reset_and_hazards.md R222). -/
def Steady (c : UnitCfg) (v : ChipView) : Prop :=
  ∀ prev, v.opMode = some prev → ∃ sel ∈ [c.sel.sleep, c.sel.standby, c.sel.rxCont], selectorIs c sel prev = true

theorem steady_of_duty (h : v.opMode ≠ none → steadyModeDuty c v (.setfreq f) = true) : Steady c v := by
  intro prev hprev
  have hduty := h (by simp [hprev])
  simpa [steadyModeDuty, hprev, or_assoc] using hduty

/-- In a steady mode the read before the low-frequency update shows that mode, and the update keeps it and the long-range
bit, so nothing that is stored is lost (spec/70_reset_and_hazards.md R222, R229). -/
theorem lowFreqUpdate_stored (hc : c.legal = true) (hsteady : Steady c v) :
    let v' := (lowFreqUpdate c f m x).foldl (ChipView.observe c) v
    chipHonest c v (lowFreqUpdate c f m x) = true → v'.faulted = false → inLoRa c v'.opMode = true →
      v'.stored = v.stored := by
  obtain ⟨-, -, hlong⟩ := modeFields_of_legal hc
  have hmode := lowFreq_and_mode_of_legal hc
  have hlongKept := maskedUpdate_and_of_disjoint (old := m) hlong (lowFreqBits_and_of_disjoint (f := f) hlong)
  have hmodeKept := maskedUpdate_and_of_disjoint (old := m) hmode (lowFreqBits_and_of_disjoint (f := f) hmode)
  obtain ⟨hread, hreadFaulted⟩ := modeRead_opMode c v m
  simp only [lowFreqUpdate, rmwEvents_eq, List.foldl_cons, List.foldl_nil, observe_readEvent hc, observe_writeEvent hc,
    chipHonest_readEvent hc, chipHonest_writeEvent hc, answered_opMode hc, written_opMode hc, modeWritten_opMode,
    modeWritten_faulted, hreadFaulted, Bool.and_eq_true, Bool.or_eq_false_iff]
  rintro ⟨hallowed, -⟩ ⟨hfaulted, -⟩ hlora
  have hloraRead : inLoRa c (some m) = true := by simpa only [inLoRa, hlongKept] using hlora
  have hkept : showsLoss c v.opMode m = false := by
    cases hknown : v.opMode with
    | none => simp [showsLoss, hloraRead]
    | some prev =>
      have hsame := mode_stays hc (hsteady prev hknown) (selectorAllowed_of_answerAllowed hfaulted hknown hallowed)
      simp [showsLoss, hloraRead, selectorIs_congr hsame]
  rw [modeWritten_stored hread (by rw [fieldGet, fieldGet, hmodeKept]) hlongKept, modeRead_stored hkept]

/-- Behind `SETFREQ` the chip holds the code. -/
theorem holdsCode_of_setfreq (hc : c.legal = true) (hsteady : Steady c v) :
    let v' := (setfreqEvents c f x1 x2 x3 m x).foldl (ChipView.observe c) v
    chipHonest c v (setfreqEvents c f x1 x2 x3 m x) = true → v'.faulted = false → inLoRa c v'.opMode = true →
      HoldsCode c f v'.stored := by
  simp only [setfreqEvents, chipHonest_append, List.foldl_append, List.foldl_cons, List.foldl_nil, observe_okEvent,
    observe_frfWrites hc, Bool.and_eq_true]
  rintro ⟨-, hupdate, -⟩ hfaulted hlora
  rw [lowFreqUpdate_stored hc (v := { v with stored := withCode c f v.stored }) hsteady hupdate hfaulted hlora]
  exact holdsCode_withCode hc v.stored

/-! ## Reading a register back -/

/-- The events of an `RDREG` that answers `r`. -/
def readBack (c : UnitCfg) (addr : Addr) (r : Byte) : List Event := [readEvent c addr r, okEvent (r.setWidth 32)]

theorem makes_seqRdreg {addr : Addr} : (seqRdreg c addr).Makes events ↔ ∃ r, events = readBack c addr r := by
  simp [seqRdreg, readBack]

theorem observe_readBack (hc : c.legal = true) {addr : Addr} (h : addr ∈ configRegisters c.chip) (r : Byte) :
    (readBack c addr r).foldl (ChipView.observe c) v = v := by
  simp [readBack, observe_readEvent hc, answered_configRegister hc h]

/-- In LoRa an honest chip reads back the byte stored. -/
theorem eq_of_readBack (hc : c.legal = true) {addr : Addr} {r b : Byte} (h : addr ∈ configRegisters c.chip)
    (hfaulted : v.faulted = false) (hlora : inLoRa c v.opMode = true) (hstored : v.stored.read addr.toNat = some b)
    (hhonest : chipHonest c v (readBack c addr r) = true) : r = b := by
  rw [readBack, chipHonest_readEvent hc, Bool.and_eq_true] at hhonest
  exact eq_of_answerAllowed hc h hfaulted hlora hstored hhonest.1

/-- The events of the three registers read back. -/
def codeReadBack (c : UnitCfg) (r2 r1 r0 : Byte) : List Event :=
  readBack c c.chip.frfMsb r2 ++ (readBack c c.chip.frfMid r1 ++ readBack c c.chip.frfLsb r0)

theorem observe_codeReadBack (hc : c.legal = true) (r2 r1 r0 : Byte) :
    (codeReadBack c r2 r1 r0).foldl (ChipView.observe c) v = v := by
  obtain ⟨hmsb, hmid, hlsb⟩ := frfRegisters_configRegisters c.chip
  simp only [codeReadBack, List.foldl_append, observe_readBack hc hmsb, observe_readBack hc hmid,
    observe_readBack hc hlsb]

/-- An honest chip that holds the code answers its bytes. -/
theorem eq_of_codeReadBack (hc : c.legal = true) {r2 r1 r0 : Byte} (hfaulted : v.faulted = false)
    (hlora : inLoRa c v.opMode = true) (hcode : HoldsCode c f v.stored)
    (hhonest : chipHonest c v (codeReadBack c r2 r1 r0) = true) :
    r2 = (freqCode c f).extractLsb' 16 8 ∧ r1 = (freqCode c f).extractLsb' 8 8 ∧
      r0 = (freqCode c f).extractLsb' 0 8 := by
  obtain ⟨hmsb, hmid, hlsb⟩ := frfRegisters_configRegisters c.chip
  simp only [codeReadBack, chipHonest_append, observe_readBack hc hmsb, observe_readBack hc hmid,
    Bool.and_eq_true] at hhonest
  obtain ⟨hhonestMsb, hhonestMid, hhonestLsb⟩ := hhonest
  exact ⟨eq_of_readBack hc hmsb hfaulted hlora hcode.msb hhonestMsb,
    eq_of_readBack hc hmid hfaulted hlora hcode.mid hhonestMid,
    eq_of_readBack hc hlsb hfaulted hlora hcode.lsb hhonestLsb⟩

end

/-! ## The results -/

theorem okResults_append (log events : List Event) : okResults (log ++ events) = okResults log ++ okResults events :=
  List.filterMap_append

theorem okResults_setfreqEvents (c : UnitCfg) (f : BitVec 32) (x1 x2 x3 m x : Byte) :
    okResults (setfreqEvents c f x1 x2 x3 m x) = [0] := rfl

theorem okResults_codeReadBack (c : UnitCfg) (r2 r1 r0 : Byte) :
    okResults (codeReadBack c r2 r1 r0) = [r2.setWidth 32, r1.setWidth 32, r0.setWidth 32] := rfl

/-! ## The four commands -/

section
variable {s t : State} {is : List Instr} {f : BitVec 32}

theorem runToOk_setfreq (h : runToOk (.setfreq f :: is) s = some t) :
    s.cfg.freqFits f = true ∧ ∃ u x1 x2 x3 m x, u.cfg = s.cfg ∧ u.log = s.log ++ setfreqEvents s.cfg f x1 x2 x3 m x ∧
      runToOk is u = some t := by
  obtain ⟨hfits, u, events, hmakes, hcfg, hlog, hrest⟩ := makes_of_runToOk_cons h
  obtain ⟨x1, x2, x3, m, x, rfl⟩ := makes_seqSetfreq.1 hmakes
  exact ⟨hfits, u, x1, x2, x3, m, x, hcfg, hlog, hrest⟩

theorem runToOk_rdreg {addr : Addr} (h : runToOk (.rdreg addr :: is) s = some t) :
    ∃ u r, u.cfg = s.cfg ∧ u.log = s.log ++ readBack s.cfg addr r ∧ runToOk is u = some t := by
  obtain ⟨-, u, events, hmakes, hcfg, hlog, hrest⟩ := makes_of_runToOk_cons h
  obtain ⟨r, rfl⟩ := makes_seqRdreg.1 hmakes
  exact ⟨u, r, hcfg, hlog, hrest⟩

/-- The whole log of the four commands. -/
theorem log_of_roundTrip
    (h : runToOk [.setfreq f, .rdreg s.cfg.chip.frfMsb, .rdreg s.cfg.chip.frfMid, .rdreg s.cfg.chip.frfLsb] s = some t) :
    s.cfg.freqFits f = true ∧ ∃ x1 x2 x3 m x r2 r1 r0,
      t.log = s.log ++ (setfreqEvents s.cfg f x1 x2 x3 m x ++ codeReadBack s.cfg r2 r1 r0) := by
  obtain ⟨hfits, u1, x1, x2, x3, m, x, hcfg1, hlog1, h⟩ := runToOk_setfreq h
  obtain ⟨u2, r2, hcfg2, hlog2, h⟩ := runToOk_rdreg h
  obtain ⟨u3, r1, hcfg3, hlog3, h⟩ := runToOk_rdreg h
  obtain ⟨u4, r0, -, hlog4, h⟩ := runToOk_rdreg h
  obtain rfl : u4 = t := Option.some.inj h
  refine ⟨hfits, x1, x2, x3, m, x, r2, r1, r0, ?_⟩
  simp only [hlog4, hlog3, hlog2, hlog1, hcfg3, hcfg2, hcfg1, codeReadBack, List.append_assoc]

end

/-- Settles O55: `SETFREQ` stores the three bytes of the code and loses none of them, an honest chip reads them back, and
the code is within one step. -/
theorem frequencyRoundTrip : Obligations.FrequencyRoundTrip := by
  unfold Obligations.FrequencyRoundTrip
  intro s t f hc hx hs hrun
  obtain ⟨hfits, x1, x2, x3, m, x, r2, r1, r0, hlog⟩ := log_of_roundTrip hrun
  rw [hlog]
  intro hhonest hfaulted hlora hduty
  have hhonest := chipHonest_of_append hhonest
  rw [chipHonest_append, Bool.and_eq_true] at hhonest
  rw [chipView_append, List.foldl_append, observe_codeReadBack hc] at hfaulted hlora
  obtain ⟨hsent, hread⟩ := hhonest
  have hcode := holdsCode_of_setfreq hc (steady_of_duty hduty) hsent hfaulted hlora
  obtain ⟨rfl, rfl, rfl⟩ := eq_of_codeReadBack hc hfaulted hlora hcode hread
  refine ⟨_, _, _, by rw [okResults_append, okResults_append, okResults_setfreqEvents, okResults_codeReadBack]; rfl, ?_⟩
  rw [bytes_of_code (frfW_le_of_legal hc), freqCode_toNat hfits, freqQuotient_eq hx hs]
  exact freqQuotient_within_step f.toNat

end Sys2Proof.Machine
end

section
/-! CERTIFICATES. The ten setters with the bus answering (spec/42_rf_config.md R121 to R132): which operands are in range,
and the transfers of each sequence. -/

namespace Sys2Proof.Machine

open Sys2Proof

/-! ## Operands in range -/

section
variable {c : UnitCfg}

@[simp] theorem wf_settxpwr (level : Byte) (boost : Bool) : (Instr.settxpwr level boost).wf c = true := rfl
@[simp] theorem wf_setbw (b : BitVec 32) : (Instr.setbw b).wf c = true := rfl
@[simp] theorem wf_setpreamble (len : BitVec 16) : (Instr.setpreamble len).wf c = true := rfl
@[simp] theorem wf_setsync (sw : Byte) : (Instr.setsync sw).wf c = true := rfl
@[simp] theorem wf_setcrc (en : Bool) : (Instr.setcrc en).wf c = true := rfl
@[simp] theorem wf_setimpl (en : Bool) : (Instr.setimpl en).wf c = true := rfl

@[simp] theorem wf_setsf {sf : BitVec 4} : (Instr.setsf sf).wf c = true ↔ c.sfMin ≤ sf.toNat ∧ sf.toNat ≤ c.sfMax := by
  simp [Instr.wf, Instr.encodable, Instr.inRange]

@[simp] theorem wf_setldr {ldr : BitVec 2} : (Instr.setldr ldr).wf c = true ↔ ldr ≠ 3 := by
  simp [Instr.wf, Instr.encodable, Instr.inRange]

@[simp] theorem wf_setcr {den : BitVec 4} :
    (Instr.setcr den).wf c = true ↔ c.crMin ≤ den.toNat ∧ den.toNat ≤ c.crMax := by
  simp [Instr.wf, Instr.encodable, Instr.inRange]

end

/-! ## The operations of the sequences -/

section
variable {s : State} {q : Seq} {es : List Input} {events : List Event}

@[simp] theorem apply_freqShadow_underway (f : BitVec 32) :
    Assign.apply (.freqShadow f) (underway s q es events) = underway { s with freqShadow := some f } q es events := rfl

@[simp] theorem apply_implicitShadow_underway (b : Bool) :
    Assign.apply (.implicitShadow b) (underway s q es events) = underway { s with implicitShadow := b } q es events := rfl

@[simp] theorem startScript_rmwField (c : UnitCfg) (addr : Addr) (f : Field) (v old x : Byte) (k : Byte → Script) :
    startScript (rmwField c addr f v k) (underway s q (.bus (.byte old) :: .bus (.byte x) :: es) events) =
      startScript (k (maskedUpdate old f.mask (fieldPlace f v)))
        (underway s ((q.push old).push x) es (events ++ rmwEvents c addr f.mask (fieldPlace f v) old x)) :=
  startScript_rmw c addr f.mask (fieldPlace f v) old x k

end

/-! ## The setters -/

/-- Settles O19: three writes, the low-frequency update, and behind it the two assignments. -/
theorem setfreqWritesCodeAndBand : Obligations.SetfreqWritesCodeAndBand := by
  unfold Obligations.SetfreqWritesCodeAndBand
  intro s f x1 x2 x3 m x4 rest hready hfits hin c lf
  rw [exec_starts (wf_setfreq.trans hfits) (lifecycleAllows_of_ready hready) hin]
  simp [sequenceOf, seqSetfreq, afterEvents, maskedUpdate, lowFreqBits, c, lf]

/-- Settles O20: the sequence is one write, and every operand is in range. -/
theorem settxpwrWritesPowerByte : Obligations.SettxpwrWritesPowerByte := by
  unfold Obligations.SettxpwrWritesPowerByte
  intro s level boost x rest hready hin
  rw [exec_starts (wf_settxpwr level boost) (lifecycleAllows_of_ready hready) hin]
  simp [sequenceOf, seqSettxpwr]

/-- Settles O21: the sequence is one field update with the index of the bin, and every request is in range. -/
theorem setbwWritesBin : Obligations.SetbwWritesBin := by
  unfold Obligations.SetbwWritesBin
  intro s b g x rest hready hin
  rw [exec_starts (wf_setbw b) (lifecycleAllows_of_ready hready) hin]
  simp [sequenceOf, seqSetbw]

/-- Settles O22: the sequence is one field update. -/
theorem setsfWritesFactor : Obligations.SetsfWritesFactor := by
  unfold Obligations.SetsfWritesFactor
  intro s sf g x rest hready hmin hmax hin
  rw [exec_starts (wf_setsf.2 ⟨hmin, hmax⟩) (lifecycleAllows_of_ready hready) hin]
  simp [sequenceOf, seqSetsf]

theorem ldrAuto_eq (c : UnitCfg) (f : Byte) :
    bitByte (ldrAuto c f) = if 10 ≤ (fieldGet c.chip.spreadingFactor f).toNat then 1 else 0 :=
  if_congr decide_eq_true_iff rfl rfl

/-- Settles O23: off and on are one field update; automatic puts a read of the spreading factor before it. -/
theorem setldrWritesFlag : Obligations.SetldrWritesFlag := by
  unfold Obligations.SetldrWritesFlag
  intro s f g x rest hready
  refine ⟨fun on hin => ?fixed, fun hin => ?automatic⟩
  case fixed =>
    have hrange : (if on then 1 else 0 : BitVec 2) ≠ 3 ∧ (if on then 1 else 0 : BitVec 2) ≠ 2 := by
      cases on <;> decide
    rw [exec_starts (wf_setldr.2 hrange.1) (lifecycleAllows_of_ready hready) hin]
    cases on <;> simp [sequenceOf, seqSetldr, writeLdr]
  case automatic =>
    rw [exec_starts (wf_setldr.2 (by decide)) (lifecycleAllows_of_ready hready) hin]
    simp [sequenceOf, seqSetldr, writeLdr, ldrAuto_eq]

/-- The subtraction of the model, on bytes, is the one on numbers where the denominator is at least 4. -/
theorem codingRateCode_eq {den : BitVec 4} (h : 4 ≤ den.toNat) :
    codingRateCode den = BitVec.ofNat 8 (den.toNat - 4) := by
  have hlt := den.isLt
  apply BitVec.eq_of_toNat_eq
  simp only [codingRateCode, BitVec.toNat_sub, BitVec.toNat_setWidth, BitVec.ofNat_eq_ofNat,
    BitVec.toNat_ofNat]
  omega

/-- Settles O24: the sequence is one field update. -/
theorem setcrWritesRate : Obligations.SetcrWritesRate := by
  unfold Obligations.SetcrWritesRate
  intro s den g x rest hready hfour hmin hmax hin
  rw [exec_starts (wf_setcr.2 ⟨hmin, hmax⟩) (lifecycleAllows_of_ready hready) hin]
  simp [sequenceOf, seqSetcr, codingRateCode_eq (hfour.trans hmin)]

/-- Settles O25: the sequence is two writes. -/
theorem setpreambleWritesLength : Obligations.SetpreambleWritesLength := by
  unfold Obligations.SetpreambleWritesLength
  intro s len x y rest hready hin
  rw [exec_starts (wf_setpreamble len) (lifecycleAllows_of_ready hready) hin]
  simp [sequenceOf, seqSetpreamble]

/-- Settles O26: the sequence is one write. -/
theorem setsyncWritesWord : Obligations.SetsyncWritesWord := by
  unfold Obligations.SetsyncWritesWord
  intro s sw x rest hready hin
  rw [exec_starts (wf_setsync sw) (lifecycleAllows_of_ready hready) hin]
  simp [sequenceOf, seqSetsync]

/-- Settles O27: the sequence is one field update. -/
theorem setcrcWritesFlag : Obligations.SetcrcWritesFlag := by
  unfold Obligations.SetcrcWritesFlag
  intro s en g x rest hready hin
  rw [exec_starts (wf_setcrc en) (lifecycleAllows_of_ready hready) hin]
  simp [sequenceOf, seqSetcrc, bitByte]

/-- Settles O28: the shadow is assigned behind the write, so a write that fails ends the sequence before it. -/
theorem setimplWritesHeaderMode : Obligations.SetimplWritesHeaderMode := by
  unfold Obligations.SetimplWritesHeaderMode
  intro s en g x rest hready c bits
  have starts {es : List Input} (hin : s.inputs = es) :
      exec (.setimpl en) s =
        .next (startScript (setImplicit c en (respondOk 0)) (underway s (.fg (.setimpl en) []) es [])) :=
    exec_starts (wf_setimpl en) (lifecycleAllows_of_ready hready) hin
  refine ⟨fun hin => ?_, fun hin => ?_⟩
  · rw [starts hin]
    simp [setImplicit, afterEvents, bitByte, c, bits]
  · rw [starts hin]
    simp [setImplicit, rmwField, rmw, startScript_busWrite_error, Seq.push, maskedUpdate, bitByte, c, bits]

end Sys2Proof.Machine
end

section
/-! CERTIFICATES. The functions of the setters: `FreqCode`, `Quantize` and the power byte (spec/42_rf_config.md R120, R122,
R123). -/

namespace Sys2Proof.Machine

open Sys2Proof

/-! ## `FreqCode` -/

section
variable {c : UnitCfg} {f : BitVec 32}

/-- The limit of R120: 2^24 steps of the source's crystal. -/
theorem freqFits_iff (hx : c.fxoscHz = 32000000) (hs : c.frfShift = 19) (hw : c.frfW = 24) :
    c.freqFits f = true ↔ f.toNat < 1024000000 := by
  rw [UnitCfg.freqFits, decide_eq_true_eq, freqQuotient_eq hx hs, hw]
  omega

/-- Settles O57: the quotient is below 2^24 exactly below the limit, where nothing is cut off; from there on the operand is
out of range. -/
theorem freqCodeTruncates : Obligations.FreqCodeTruncates := by
  unfold Obligations.FreqCodeTruncates
  refine ⟨rfl, rfl, rfl, fun c f hx hs hw => ?_⟩
  have hfits := freqFits_iff (f := f) hx hs hw
  refine ⟨by omega, fun hlt => ?below, fun hge s hcfg hidle => ?refused⟩
  case below =>
    rw [freqCode_toNat (hfits.2 hlt), freqQuotient_eq hx hs]
    exact ⟨rfl, freqQuotient_within_step f.toNat⟩
  case refused =>
    refine exec_of_not_wf hidle ?_
    rw [wf_setfreq, hcfg, Bool.eq_false_iff]
    exact fun h => absurd (hfits.1 h) (by omega)

end

/-! ## `Quantize` -/

theorem quantizeIn_cons_of_le {bin b : Nat} (h : b ≤ bin) (bins : List Nat) : quantizeIn (bin :: bins) b = 0 := by
  cases bins with
  | nil => rfl
  | cons bin' bins => exact if_pos h

theorem quantizeIn_cons_of_lt {bin b : Nat} (h : bin < b) {bins : List Nat} (hne : bins ≠ []) :
    quantizeIn (bin :: bins) b = quantizeIn bins b + 1 := by
  cases bins with
  | nil => exact absurd rfl hne
  | cons bin' bins => exact if_neg (by omega)

theorem quantizeIn_lt {bins : List Nat} (hne : bins ≠ []) (b : Nat) : quantizeIn bins b < bins.length := by
  induction bins with
  | nil => exact absurd rfl hne
  | cons bin bins ih =>
    by_cases hle : b ≤ bin
    · rw [quantizeIn_cons_of_le hle]; exact Nat.zero_lt_succ _
    · by_cases hempty : bins = []
      · rw [hempty]; exact Nat.zero_lt_one
      · rw [quantizeIn_cons_of_lt (by omega) hempty]
        exact Nat.succ_lt_succ (ih hempty)

/-- Every bin before the index is too small. -/
theorem quantizeIn_before {bins : List Nat} {b j : Nat} (hj : j < quantizeIn bins b) :
    ∃ bin, bins[j]? = some bin ∧ bin < b := by
  induction bins generalizing j with
  | nil => exact absurd hj (Nat.not_lt_zero j)
  | cons bin bins ih =>
    by_cases hle : b ≤ bin
    · rw [quantizeIn_cons_of_le hle] at hj; omega
    · by_cases hempty : bins = []
      · rw [hempty] at hj; exact absurd hj (Nat.not_lt_zero j)
      · rw [quantizeIn_cons_of_lt (by omega) hempty] at hj
        cases j with
        | zero => exact ⟨bin, rfl, by omega⟩
        | succ j => exact ih (by omega)

/-- Where some bin reaches the request the one at the index does. -/
theorem quantizeIn_reaches {bins : List Nat} {b : Nat} (h : ∃ bin ∈ bins, b ≤ bin) :
    ∃ bin, bins[quantizeIn bins b]? = some bin ∧ b ≤ bin := by
  induction bins with
  | nil => simp at h
  | cons bin bins ih =>
    by_cases hle : b ≤ bin
    · exact ⟨bin, by rw [quantizeIn_cons_of_le hle]; rfl, hle⟩
    · obtain ⟨bin', hmem, hreach⟩ : ∃ bin' ∈ bins, b ≤ bin' := by simpa [hle] using h
      rw [quantizeIn_cons_of_lt (by omega) (List.ne_nil_of_mem hmem)]
      exact ih ⟨bin', hmem, hreach⟩

/-- Where no bin reaches the request the index is the last. -/
theorem quantizeIn_last {bins : List Nat} {b : Nat} (h : ∀ bin ∈ bins, bin < b) :
    quantizeIn bins b = bins.length - 1 := by
  induction bins with
  | nil => rfl
  | cons bin bins ih =>
    obtain ⟨hlt, hrest⟩ := List.forall_mem_cons.1 h
    by_cases hempty : bins = []
    · rw [hempty]; rfl
    · have hpos := List.length_pos_of_ne_nil hempty
      rw [quantizeIn_cons_of_lt hlt hempty, ih hrest, List.length_cons]
      omega

/-- Settles O58: induction on the bins for each of the four parts. -/
theorem quantizeTakesCeiling : Obligations.QuantizeTakesCeiling := by
  unfold Obligations.QuantizeTakesCeiling
  refine ⟨rfl, fun c b hne => ⟨?index, fun hreached => ⟨?reaches, ?least⟩, ?last⟩⟩
  case index => exact quantizeIn_lt hne b.toNat
  case reaches => exact quantizeIn_reaches hreached
  case least => exact fun j hj => quantizeIn_before hj
  case last => exact quantizeIn_last

/-! ## The power byte -/

theorem clamp_eq {lo hi : Int} (h : lo ≤ hi) (p : Int) : clamp p lo hi = max lo (min hi p) := by
  unfold clamp
  omega

theorem clamp_mem {lo hi : Int} (h : lo ≤ hi) (p : Int) : lo ≤ clamp p lo hi ∧ clamp p lo hi ≤ hi := by
  unfold clamp
  omega

/-- A level of four bits is added to constant bits above it. -/
theorem toNat_or_level {bits : Byte} (hbits : bits &&& 0x0F = 0) {n : Int} (hn : 0 ≤ n) (hn' : n ≤ 15) :
    ((bits ||| BitVec.ofInt 8 n).toNat : Int) = bits.toNat + n := by
  lift n to Nat using hn
  have hmod : n % 16 = n := Nat.mod_eq_of_lt (by omega)
  have hlevel : BitVec.ofNat 8 n = 0x0F &&& BitVec.ofNat 8 n := by
    apply BitVec.eq_of_toNat_eq
    have hand := Nat.and_two_pow_sub_one_eq_mod n 4
    simp [Nat.and_comm 15, Nat.mod_eq_of_lt (show n < 256 by omega), hmod, hand]
  have hdisjoint : bits &&& BitVec.ofNat 8 n = 0 := by
    rw [hlevel, ← BitVec.and_assoc, hbits]
    exact BitVec.zero_and
  rw [BitVec.ofInt_natCast, ← BitVec.add_eq_or_of_and_eq_zero _ _ hdisjoint, BitVec.toNat_add_of_and_eq_zero hdisjoint,
    BitVec.toNat_ofNat]
  omega

/-- What a legal record says of the two PA paths. -/
theorem power_of_legal {c : UnitCfg} (hc : c.legal = true) :
    (c.paBoostBits &&& 0x0F = 0 ∧ 2 ≤ c.pwrBoostMin ∧ c.pwrBoostMin ≤ c.pwrBoostMax ∧ c.pwrBoostMax ≤ 17) ∧
      c.paRfoBits &&& 0x0F = 0 ∧ 0 ≤ c.pwrRfoMin ∧ c.pwrRfoMin ≤ c.pwrRfoMax ∧ c.pwrRfoMax ≤ 15 := by
  have hpower : c.legalPower = true := by
    simp only [UnitCfg.legal, Bool.and_eq_true] at hc
    tauto
  simp only [UnitCfg.legalPower, Bool.and_eq_true, decide_eq_true_eq] at hpower
  obtain ⟨⟨⟨⟨⟨⟨⟨hboost, hrfo⟩, hbase⟩, hboostLimits⟩, hboostMax⟩, hzero⟩, hrfoLimits⟩, hrfoMax⟩ := hpower
  exact ⟨⟨hboost, hbase, hboostLimits, hboostMax⟩, hrfo, hzero, hrfoLimits, hrfoMax⟩

/-- Settles O59: the level of either path fits the four bits below the constant ones. -/
theorem powerByteClamps : Obligations.PowerByteClamps := by
  unfold Obligations.PowerByteClamps
  refine ⟨⟨rfl, rfl⟩, fun c level hc => ?_⟩
  obtain ⟨⟨hboost, hbase, hboostLimits, hboostMax⟩, hrfo, hzero, hrfoLimits, hrfoMax⟩ := power_of_legal hc
  have hboostLevel := clamp_mem hboostLimits level.toInt
  have hrfoLevel := clamp_mem hrfoLimits level.toInt
  rw [← clamp_eq hboostLimits, ← clamp_eq hrfoLimits]
  exact ⟨toNat_or_level (n := _ - 2) hboost (by omega) (by omega), toNat_or_level hrfo (by omega) (by omega)⟩

end Sys2Proof.Machine
end

section
/-! SUPPORT. The sequences of the transmit commands with every transfer answered: the bytes that go to the FIFO, and the
flag reads of `ENDPKT` (spec/43_packet_tx.md R142, R144). -/

namespace Sys2Proof.Machine

open Sys2Proof

section
variable {s : State} {q : Seq} {es : List Input} {events : List Event} {c : UnitCfg}

@[simp] theorem busAnswers_append (xs ys : List Byte) : busAnswers (xs ++ ys) = busAnswers xs ++ busAnswers ys :=
  List.map_append

/-! ## Writing to the FIFO -/

@[simp] theorem writeFifo_nil (c : UnitCfg) (p : Script) : writeFifo c [] p = p := rfl
@[simp] theorem writeFifo_cons (c : UnitCfg) (b : Byte) (bytes : List Byte) (p : Script) :
    writeFifo c (b :: bytes) p = busWrite c c.chip.fifo b (writeFifo c bytes p) := rfl

/-- Each byte is one answered write of the FIFO register. -/
theorem startScript_writeFifo (c : UnitCfg) {bytes xs : List Byte} (hlen : xs.length = bytes.length) (p : Script) :
    startScript (writeFifo c bytes p) (underway s q (busAnswers xs ++ es) events) =
      startScript p (underway s (xs.foldl Seq.push q) es
        (events ++ List.zipWith (writeEvent c c.chip.fifo) bytes xs)) := by
  induction bytes generalizing xs q events with
  | nil =>
    obtain rfl := List.eq_nil_of_length_eq_zero hlen
    simp
  | cons b bytes ih =>
    obtain ⟨x, xs, rfl⟩ := List.exists_cons_of_length_eq_add_one hlen
    simp [ih (Nat.succ.inj hlen)]

/-- An error raised between transfers ends the command. -/
@[simp] theorem startScript_raise (st : Status) (info : BitVec 32) :
    startScript (raise st info) (underway s q es events) = afterEvents s es (events ++ [.response st info []]) :=
  (runScript_finish es _ (underway s q es events)).trans
    (underway_respond (s := s) (q := q) (es := es) (events := events) st info [])

/-! ## The flag reads of `ENDPKT` -/

/-- What is left of `ENDPKT` after `n` flag reads that did not end it. -/
def flagPolls (c : UnitCfg) (n : Nat) : Script :=
  .poll (readAddress c c.chip.irqFlags) c.readDummy (fun k v => txDoneSeen c v || pollLimitReached c k) n
    fun _ v => afterPoll c v

theorem seqEndpkt_eq (c : UnitCfg) : seqEndpkt c = setMode c c.sel.tx (flagPolls c 0) := rfl

/-- One more flag read ends the polling or leaves the rest of it. -/
theorem startScript_flagPolls (c : UnitCfg) (n : Nat) (v : Byte) :
    startScript (flagPolls c n) (underway s q (.bus (.byte v) :: es) events) =
      startScript (if txDoneSeen c v || pollLimitReached c (n + 1) then afterPoll c v else flagPolls c (n + 1))
        (underway s (q.push v) es (events ++ [readEvent c c.chip.irqFlags v])) :=
  startScript_xfer _ _ v fun v => (flagPolls c n).feed v

/-- Flag reads without TX-done that stay below the limit leave the unit polling. -/
theorem startScript_flagPolls_goOn {polls : List Byte} (hclear : ∀ u ∈ polls, txDoneSeen c u = false) {n : Nat}
    (hbelow : ∀ limit, c.txPollLimit = some limit → n + polls.length < limit) :
    startScript (flagPolls c n) (underway s q (busAnswers polls ++ es) events) =
      startScript (flagPolls c (n + polls.length)) (underway s (polls.foldl Seq.push q) es
        (events ++ polls.map (readEvent c c.chip.irqFlags))) := by
  induction polls generalizing n q events with
  | nil => simp
  | cons u polls ih =>
    obtain ⟨hu, hpolls⟩ := List.forall_mem_cons.1 hclear
    have hlimit : pollLimitReached c (n + 1) = false :=
      decide_eq_false fun heq => absurd (hbelow _ heq) (by simp)
    have hrest : ∀ limit, c.txPollLimit = some limit → n + 1 + polls.length < limit := fun limit heq => by
      have := hbelow limit heq
      simp only [List.length_cons] at this
      omega
    rw [busAnswers_cons, List.cons_append, startScript_flagPolls, hu, hlimit, Bool.false_or,
      if_neg Bool.false_ne_true, ih hpolls hrest]
    simp [Nat.add_assoc, Nat.add_comm 1]

/-- A flag read that shows TX-done ends the polling, also at the limit: the flag is cleared and the shadow follows. -/
theorem startScript_flagPolls_done (n : Nat) {v : Byte} (hv : txDoneSeen c v = true) (y : Byte) :
    startScript (flagPolls c n) (underway s q (.bus (.byte v) :: .bus (.byte y) :: es) events) =
      { afterEvents s es (events ++
          [readEvent c c.chip.irqFlags v, writeEvent c c.chip.irqFlags c.chip.txDone.mask y, okEvent 0])
        with modeShadow := s.modeShadow.map fun m => withSelector s.cfg m c.sel.standby } := by
  have happly (q : Seq) (es : List Input) (events : List Event) :
      Assign.apply (.modeSelector c.sel.standby) (underway s q es events) =
        underway { s with modeShadow := s.modeShadow.map fun m => withSelector s.cfg m c.sel.standby } q es events :=
    rfl
  simp [startScript_flagPolls, hv, afterPoll, happly, afterEvents]

/-- A flag read without TX-done at the limit ends the command with `ERR_TIMEOUT`. -/
theorem startScript_flagPolls_timeout {n : Nat} (hlimit : c.txPollLimit = some (n + 1)) {v : Byte}
    (hv : txDoneSeen c v = false) :
    startScript (flagPolls c n) (underway s q (.bus (.byte v) :: es) events) =
      afterEvents s es (events ++ [readEvent c c.chip.irqFlags v, .response .errTimeout 0 []]) := by
  simp [startScript_flagPolls, hv, pollLimitReached, hlimit, afterPoll]

/-- Polling waits where the answers have run out. -/
theorem startScript_flagPolls_waits (c : UnitCfg) (n : Nat) (s : State) (q : Seq) (events : List Event) :
    startScript (flagPolls c n) (underway s q [] events) = underway s q [] events :=
  runScript_waits (request_poll _ _ _ _ _)

end

end Sys2Proof.Machine
end

section
/-! CERTIFICATES. `BEGINPKT`, `WRITE` and `ENDPKT` with the bus answering (spec/43_packet_tx.md R140 to R144,
spec/70_reset_and_hazards.md R227). -/

namespace Sys2Proof.Machine

open Sys2Proof

@[simp] theorem wf_beginpkt (c : UnitCfg) : Instr.beginpkt.wf c = true := rfl
@[simp] theorem wf_endpkt (c : UnitCfg) : Instr.endpkt.wf c = true := rfl
@[simp] theorem wf_write {c : UnitCfg} {data : List Byte} : (Instr.write data).wf c = true ↔ data.length < 65536 := by
  simp [Instr.wf, Instr.encodable, Instr.inRange]

/-- Settles O29: the sequence is `SetMode`, two writes and the response. -/
theorem beginpktStagesEmptyPacket : Obligations.BeginpktStagesEmptyPacket := by
  unfold Obligations.BeginpktStagesEmptyPacket
  intro s m x y z rest hready hin
  rw [exec_starts (wf_beginpkt s.cfg) (lifecycleAllows_of_ready hready) hin]
  simp [sequenceOf, seqBeginpkt, afterEvents, withSelector, maskedUpdate]

/-- Settles O30: the length read fixes how many bytes go to the FIFO, and `startScript_writeFifo` runs over them. -/
theorem writeAppendsAcceptedBytes : Obligations.WriteAppendsAcceptedBytes := by
  unfold Obligations.WriteAppendsAcceptedBytes
  intro s data xs cur y rest hready hdata c k hxs hin
  have hk : acceptedCount c cur data.length = k := rfl
  have hlen : xs.length = (data.take k).length := by
    rw [hxs, List.length_take, Nat.min_eq_left (Nat.min_le_left _ _)]
  refine ⟨fun hmax => ?_, ?_⟩
  · have hcur := cur.isLt
    omega
  · rw [exec_starts (wf_write.2 hdata) (lifecycleAllows_of_ready hready) hin]
    simp [sequenceOf, seqWrite, hk, startScript_writeFifo _ hlen, c]

/-! ## `ENDPKT` -/

section
variable {c : UnitCfg}

theorem txDoneSeen_eq_false {v : Byte} : txDoneSeen c v = false ↔ v &&& c.chip.txDone.mask = 0 := by
  simp [txDoneSeen]

theorem txDoneSeen_eq_true {v : Byte} : txDoneSeen c v = true ↔ v &&& c.chip.txDone.mask ≠ 0 := by
  simp [txDoneSeen]

/-- The first two transfers of `ENDPKT` set TX; then it polls. -/
theorem exec_endpkt_polls {s : State} {m x : Byte} {es : List Input} (hready : s.ustate = .ready)
    (hin : s.inputs = .bus (.byte m) :: .bus (.byte x) :: es) :
    exec .endpkt s = .next (startScript (flagPolls s.cfg 0)
      (underway { s with modeShadow := some (withSelector s.cfg m s.cfg.sel.tx) } (.fg .endpkt [m, x]) es
        (rmwEvents s.cfg s.cfg.chip.opMode s.cfg.chip.mode.mask (selectorBits s.cfg s.cfg.sel.tx) m x))) := by
  rw [exec_starts (wf_endpkt s.cfg) (lifecycleAllows_of_ready hready) hin]
  simp [sequenceOf, seqEndpkt_eq, Seq.push]

theorem exec_endpkt_notReady {s : State} (h : s.ustate ≠ .ready) :
    exec .endpkt s = .next (s.respond .errState 0 []) := by
  rw [exec_eq, runCommand, if_pos (wf_endpkt s.cfg), if_neg (by simp [lifecycleAllows, h])]

end

/-- Settles O31: the reads without TX-done leave the unit polling, and the read with it ends the polling. -/
theorem endpktCompletesOnTxDone : Obligations.EndpktCompletesOnTxDone := by
  unfold Obligations.EndpktCompletesOnTxDone
  intro s m x v y polls rest hready hpolls hv hbelow hin
  have hclear : ∀ u ∈ polls, txDoneSeen s.cfg u = false := fun u hu => txDoneSeen_eq_false.2 (hpolls u hu)
  have hbelow : ∀ limit, s.cfg.txPollLimit = some limit → 0 + polls.length < limit := by simpa using hbelow
  have hin : s.inputs = .bus (.byte m) :: .bus (.byte x) ::
      (busAnswers polls ++ .bus (.byte v) :: .bus (.byte y) :: rest) := by simpa using hin
  rw [exec_endpkt_polls hready hin, startScript_flagPolls_goOn hclear hbelow,
    startScript_flagPolls_done _ (txDoneSeen_eq_true.2 hv)]
  simp [afterEvents, withSelector, maskedUpdate]

/-- Settles O32: the read at the limit ends the polling, and below the limit the unit waits for the next one. -/
theorem endpktWithoutTxDone : Obligations.EndpktWithoutTxDone := by
  unfold Obligations.EndpktWithoutTxDone
  intro s m x polls rest hready hpolls c w events
  have hclear : ∀ u ∈ polls, txDoneSeen c u = false := fun u hu => txDoneSeen_eq_false.2 (hpolls u hu)
  refine ⟨fun n hlimit hpos hlen hin => ?_, fun hbelow hin => ?_⟩
  · obtain ⟨before, last, rfl⟩ : ∃ before last, polls = before ++ [last] :=
      (List.eq_nil_or_concat' polls).resolve_left (List.ne_nil_of_length_pos (hlen ▸ hpos))
    have hlimit : c.txPollLimit = some (0 + before.length + 1) := by simp [hlimit, ← hlen]
    have hbelow : ∀ limit, c.txPollLimit = some limit → 0 + before.length < limit := fun limit heq => by
      have := Option.some.inj (hlimit.symm.trans heq)
      omega
    have hin : s.inputs = .bus (.byte m) :: .bus (.byte x) :: (busAnswers before ++ .bus (.byte last) :: rest) := by
      simpa using hin
    obtain ⟨hbefore, hlast⟩ := List.forall_mem_append.1 hclear
    rw [exec_endpkt_polls hready hin, startScript_flagPolls_goOn hbefore hbelow,
      startScript_flagPolls_timeout hlimit (hlast last (List.mem_singleton.2 rfl))]
    simp [afterEvents, withSelector, maskedUpdate, events, w, c]
  · have hbelow : ∀ limit, c.txPollLimit = some limit → 0 + polls.length < limit := by simpa using hbelow
    have hin : s.inputs = .bus (.byte m) :: .bus (.byte x) :: (busAnswers polls ++ []) := by simpa using hin
    rw [exec_endpkt_polls hready hin, startScript_flagPolls_goOn hclear hbelow, startScript_flagPolls_waits]
    simp [underway, afterEvents, foldl_push_fg, withSelector, maskedUpdate, events, w, c]

/-! ## `ENDPKT` with a limit -/

section
variable {c : UnitCfg}

theorem txPollLimit_ne_zero_of_legal (hc : c.legal = true) : c.txPollLimit ≠ some 0 := by
  simp only [UnitCfg.legal, Bool.and_eq_true, decide_eq_true_eq] at hc
  tauto

theorem isReadOf_readEvent (hc : c.legal = true) (addr reg : Addr) (r : Byte) :
    isReadOf c reg (readEvent c addr r) = decide (addr = reg) := by
  have hflag := writeFlag_of_legal hc
  simp [readEvent, isReadOf, isWrite_readAddress hflag, addrOf_readAddress hflag]

theorem isReadOf_writeEvent (hc : c.legal = true) (addr reg : Addr) (d x : Byte) :
    isReadOf c reg (writeEvent c addr d x) = false := by
  simp [writeEvent, isReadOf, isWrite_writeAddress (writeFlag_of_legal hc)]

@[simp] theorem isReadOf_response (c : UnitCfg) (reg : Addr) (st : Status) (result : BitVec 32) (data : List Byte) :
    isReadOf c reg (.response st result data) = false := rfl
@[simp] theorem isReadOf_okEvent (c : UnitCfg) (reg : Addr) (result : BitVec 32) :
    isReadOf c reg (okEvent result) = false := rfl

/-- Setting the mode reads no flags. -/
theorem flagReads_endpkt_le (hc : c.legal = true) (mask val m x : Byte) (polls : List Byte) (more : List Event) :
    ((rmwEvents c c.chip.opMode mask val m x ++ polls.map (readEvent c c.chip.irqFlags) ++ more).filter
      (isReadOf c c.chip.irqFlags)).length ≤ polls.length + (more.filter (isReadOf c c.chip.irqFlags)).length := by
  have hmode : c.chip.opMode ≠ c.chip.irqFlags := (ne_opMode_of_legal hc (by simp)).symm
  have hpolls := List.length_filter_le (isReadOf c c.chip.irqFlags) (polls.map (readEvent c c.chip.irqFlags))
  simpa [rmwEvents_eq, isReadOf_readEvent hc, isReadOf_writeEvent hc, hmode] using hpolls

/-- Among more than `n` flag bytes one of the first `n` shows TX-done, or none of them does. -/
theorem flagBytes_cases (c : UnitCfg) {n : Nat} {bytes : List Byte} (h : n < bytes.length) :
    (∃ clear v y rest, bytes = clear ++ v :: y :: rest ∧ clear.length < n ∧
      (∀ u ∈ clear, u &&& c.chip.txDone.mask = 0) ∧ v &&& c.chip.txDone.mask ≠ 0) ∨
    ∃ clear rest, bytes = clear ++ rest ∧ clear.length = n ∧ ∀ u ∈ clear, u &&& c.chip.txDone.mask = 0 := by
  induction n generalizing bytes with
  | zero => exact .inr ⟨[], bytes, rfl, rfl, by simp⟩
  | succ n ih =>
    obtain _ | ⟨u, _ | ⟨y, bytes⟩⟩ := bytes
    · simp at h
    · simp at h
    · by_cases hu : u &&& c.chip.txDone.mask = 0
      · rcases ih (Nat.lt_of_succ_lt_succ h) with ⟨clear, v, y', rest, hb, hlen, hclear, hv⟩ |
          ⟨clear, rest, hb, hlen, hclear⟩
        · exact .inl ⟨u :: clear, v, y', rest, by rw [hb]; rfl, Nat.succ_lt_succ hlen,
            List.forall_mem_cons.2 ⟨hu, hclear⟩, hv⟩
        · exact .inr ⟨u :: clear, rest, by rw [hb]; rfl, congrArg (· + 1) hlen, List.forall_mem_cons.2 ⟨hu, hclear⟩⟩
      · exact .inl ⟨[], u, y, bytes, rfl, by simp, by simp, hu⟩

end

/-- Settles O33: one of the first `n` flag bytes shows TX-done and ends the polling there, or the last of them does at
the limit; a unit that is not ready makes no transfer. -/
theorem endpktEndsWithinLimit : Obligations.EndpktEndsWithinLimit := by
  unfold Obligations.EndpktEndsWithinLimit
  intro s n bs hc hlimit hin hlen
  by_cases hready : s.ustate = .ready
  · obtain ⟨m, x, bytes, rfl⟩ : ∃ m x bytes, bs = m :: x :: bytes := by
      obtain _ | ⟨m, _ | ⟨x, bytes⟩⟩ := bs
      · simp at hlen
      · simp at hlen
      · exact ⟨m, x, bytes, rfl⟩
    have hbytes : n < bytes.length := by simp at hlen; omega
    have hpos : 0 < n := Nat.pos_of_ne_zero fun hzero => txPollLimit_ne_zero_of_legal hc (hzero ▸ hlimit)
    rcases flagBytes_cases s.cfg hbytes with ⟨clear, v, y, rest, rfl, hshort, hclear, hv⟩ |
      ⟨clear, rest, rfl, hn, hclear⟩
    · have hexec := endpktCompletesOnTxDone s m x v y clear (busAnswers rest) hready hclear hv
        (fun limit heq => by rwa [← Option.some.inj (hlimit.symm.trans heq)]) (by simpa using hin)
      refine ⟨_, _, hexec, rfl, rfl, (flagReads_endpkt_le hc _ _ _ _ _ _).trans ?_⟩
      have hdone : ([readEvent s.cfg s.cfg.chip.irqFlags v,
          writeEvent s.cfg s.cfg.chip.irqFlags s.cfg.chip.txDone.mask y, okEvent 0].filter
            (isReadOf s.cfg s.cfg.chip.irqFlags)).length = 1 := by
        simp [isReadOf_readEvent hc, isReadOf_writeEvent hc]
      omega
    · have hexec := (endpktWithoutTxDone s m x clear (busAnswers rest) hready hclear).1 n hlimit hpos hn
        (by simpa using hin)
      exact ⟨_, _, hexec, rfl, rfl, (flagReads_endpkt_le hc _ _ _ _ _ _).trans (by simp [hn])⟩
  · exact ⟨_, [.response .errState 0 []], exec_endpkt_notReady hready, rfl, rfl, by simp⟩

end Sys2Proof.Machine
end

section
/-! CERTIFICATES. What `BEGINPKT` and `WRITE`s stage is what the chip holds (spec/43_packet_tx.md R143,
spec/20_memory.md R47, R49): the log of the commands, byte by byte, as the chip sees it. -/

namespace Sys2Proof.Machine

open Sys2Proof

section
variable {c : UnitCfg} {v : ChipView} {events more : List Event}

/-! ## The events of the commands -/

/-- The events of a `BEGINPKT` that ends with `OK`. -/
def beginpktEvents (c : UnitCfg) (m x y z : Byte) : List Event :=
  rmwEvents c c.chip.opMode c.chip.mode.mask (selectorBits c c.sel.standby) m x ++
    [writeEvent c c.chip.fifoAddrPtr c.fifoTxBase y, writeEvent c c.chip.payloadLength 0 z, okEvent 0]

theorem makes_seqBeginpkt : (seqBeginpkt c).Makes events ↔ ∃ m x y z, events = beginpktEvents c m x y z := by
  simp [seqBeginpkt, setMode, beginpktEvents, Assign.events]

theorem makes_writeFifo {bytes : List Byte} {p : Script} :
    (writeFifo c bytes p).Makes events ↔ ∃ xs rest, xs.length = bytes.length ∧ p.Makes rest ∧
      events = List.zipWith (writeEvent c c.chip.fifo) bytes xs ++ rest := by
  induction bytes generalizing events with
  | nil => simp
  | cons b bytes ih =>
    simp only [writeFifo_cons, makes_busWrite, ih]
    constructor
    · rintro ⟨x, _, ⟨xs, rest, hlen, hp, rfl⟩, rfl⟩
      exact ⟨x :: xs, rest, by simp [hlen], hp, rfl⟩
    · rintro ⟨xs, rest, hlen, hp, rfl⟩
      obtain ⟨x, xs, rfl⟩ := List.exists_cons_of_length_eq_add_one hlen
      exact ⟨x, _, ⟨xs, rest, Nat.succ.inj hlen, hp, rfl⟩, rfl⟩

/-- The events of a `WRITE` that ends with `OK`: the chip reports `cur`, the bytes that fit go to the FIFO, and the
length follows. -/
def appendEvents (c : UnitCfg) (data : List Byte) (cur : Byte) (xs : List Byte) (y : Byte) : List Event :=
  let k := acceptedCount c cur data.length
  readEvent c c.chip.payloadLength cur :: (List.zipWith (writeEvent c c.chip.fifo) (data.take k) xs ++
    [writeEvent c c.chip.payloadLength (BitVec.ofNat 8 (cur.toNat + k)) y, okEvent (BitVec.ofNat 32 k)])

theorem makes_seqWrite {data : List Byte} :
    (seqWrite c data).Makes events ↔ ∃ cur xs y,
      xs.length = (data.take (acceptedCount c cur data.length)).length ∧ events = appendEvents c data cur xs y := by
  simp only [seqWrite, makes_busRead, makes_writeFifo, makes_busWrite, makes_respondOk, appendEvents]
  constructor
  · rintro ⟨cur, _, ⟨xs, _, hlen, ⟨y, _, rfl, rfl⟩, rfl⟩, rfl⟩
    exact ⟨cur, xs, y, hlen, rfl⟩
  · rintro ⟨cur, xs, y, hlen, rfl⟩
    exact ⟨cur, _, ⟨xs, _, hlen, ⟨y, _, rfl, rfl⟩, rfl⟩, rfl⟩

/-- These are the events of a `WRITE` of each block, one after the other, each ended with `OK`. -/
inductive Appends (c : UnitCfg) : List (List Byte) → List Event → Prop
  | nil : Appends c [] []
  | cons {data : List Byte} {blocks : List (List Byte)} {cur y : Byte} {xs : List Byte} {events : List Event}
      (hlen : xs.length = (data.take (acceptedCount c cur data.length)).length) (h : Appends c blocks events) :
      Appends c (data :: blocks) (appendEvents c data cur xs y ++ events)

theorem appends_of_runToOk {blocks : List (List Byte)} {s t : State} (h : runToOk (blocks.map .write) s = some t) :
    ∃ events, Appends s.cfg blocks events ∧ t.log = s.log ++ events := by
  induction blocks generalizing s with
  | nil =>
    obtain rfl : s = t := Option.some.inj h
    exact ⟨[], .nil, by simp⟩
  | cons data blocks ih =>
    obtain ⟨-, u, _, hmakes, hcfg, hu, hrest⟩ := makes_of_runToOk_cons h
    obtain ⟨cur, xs, y, hlen, rfl⟩ := makes_seqWrite.1 hmakes
    obtain ⟨events, happends, ht⟩ := ih hrest
    exact ⟨_, .cons hlen (hcfg ▸ happends), by rw [ht, hu, List.append_assoc]⟩

/-- The whole log of the commands. -/
theorem log_of_packet {blocks : List (List Byte)} {s t : State}
    (h : runToOk (.beginpkt :: blocks.map .write) s = some t) :
    ∃ m x y z events, Appends s.cfg blocks events ∧ t.log = s.log ++ (beginpktEvents s.cfg m x y z ++ events) := by
  obtain ⟨-, u, _, hmakes, hcfg, hu, hrest⟩ := makes_of_runToOk_cons h
  obtain ⟨m, x, y, z, rfl⟩ := makes_seqBeginpkt.1 hmakes
  obtain ⟨events, happends, ht⟩ := appends_of_runToOk hrest
  exact ⟨m, x, y, z, events, hcfg ▸ happends, by rw [ht, hu, List.append_assoc]⟩

/-! ## Writes of the FIFO and of its pointer -/

theorem payloadLength_mem_configRegisters (m : ChipMap) : m.payloadLength ∈ configRegisters m := by
  simp [configRegisters]

theorem written_fifoAddrPtr (hc : c.legal = true) (d : Byte) :
    v.written c c.chip.fifoAddrPtr d = { v with fifoPtr := some d } := by
  have hnodup : [c.chip.fifo, c.chip.fifoAddrPtr].Nodup :=
    (addresses_nodup_of_legal hc).sublist (by simp [ChipMap.addresses])
  have hfifo : c.chip.fifoAddrPtr ≠ c.chip.fifo := by simpa [eq_comm] using hnodup
  simp [ChipView.written, hfifo]

/-- Below 0xFF the pointer moves on by one. -/
theorem nextPtr_ofNat {n : Nat} (h : n < 255) : nextPtr (BitVec.ofNat 8 n) = some (BitVec.ofNat 8 (n + 1)) := by
  have hne : BitVec.ofNat 8 n ≠ 0xFF := fun heq => by
    have := congrArg BitVec.toNat heq
    simp at this
    omega
  rw [nextPtr, if_neg hne, BitVec.ofNat_add]
  rfl

/-- A FIFO write leaves the configuration registers, the mode and the fault mark. -/
theorem written_fifo_frame (c : UnitCfg) (v : ChipView) (d : Byte) :
    (v.written c c.chip.fifo d).stored = v.stored ∧ (v.written c c.chip.fifo d).opMode = v.opMode ∧
      (v.written c c.chip.fifo d).faulted = v.faulted := by
  cases hptr : v.fifoPtr <;> simp [ChipView.written, hptr]

theorem observe_fifoWrites_frame (hc : c.legal = true) (bytes xs : List Byte) :
    let v' := (List.zipWith (writeEvent c c.chip.fifo) bytes xs).foldl (ChipView.observe c) v
    v'.stored = v.stored ∧ v'.opMode = v.opMode ∧ v'.faulted = v.faulted := by
  induction bytes generalizing v xs with
  | nil => exact ⟨rfl, rfl, rfl⟩
  | cons b bytes ih =>
    cases xs with
    | nil => exact ⟨rfl, rfl, rfl⟩
    | cons x xs =>
      obtain ⟨hstored, hmode, hfaulted⟩ := written_fifo_frame c v b
      simp only [List.zipWith_cons_cons, List.foldl_cons, observe_writeEvent hc]
      rw [← hstored, ← hmode, ← hfaulted]
      exact ih xs

/-- The FIFO holds these bytes from the TX base on, its pointer stands after them, and the mode keeps them. -/
structure FifoHolds (c : UnitCfg) (v : ChipView) (sent : List Byte) : Prop where
  bytes : ∀ j (h : j < sent.length), v.fifo.read (c.fifoTxBase.toNat + j) = some sent[j]
  ptr : v.fifoPtr = some (BitVec.ofNat 8 (c.fifoTxBase.toNat + sent.length))
  keeps : keepsFifo c v.opMode = true

theorem FifoHolds.of_same {u : ChipView} {sent : List Byte} (h : FifoHolds c v sent) (hfifo : u.fifo = v.fifo)
    (hptr : u.fifoPtr = v.fifoPtr) (hmode : u.opMode = v.opMode) : FifoHolds c u sent := by
  obtain ⟨hbytes, hptr', hkeeps⟩ := h
  exact ⟨by rwa [hfifo], hptr.trans hptr', by rwa [hmode]⟩

/-- One byte more, as long as it does not go to 0xFF. -/
theorem FifoHolds.push {sent : List Byte} (h : FifoHolds c v sent) (d : Byte)
    (hroom : c.fifoTxBase.toNat + sent.length < 255) : FifoHolds c (v.written c c.chip.fifo d) (sent ++ [d]) := by
  obtain ⟨hbytes, hptr, hkeeps⟩ := h
  have hat : (BitVec.ofNat 8 (c.fifoTxBase.toNat + sent.length)).toNat = c.fifoTxBase.toNat + sent.length := by
    rw [BitVec.toNat_ofNat]
    omega
  have hwritten : v.written c c.chip.fifo d =
      { v with
        fifo := v.fifo.write (c.fifoTxBase.toNat + sent.length) d
        fifoPtr := some (BitVec.ofNat 8 (c.fifoTxBase.toNat + sent.length + 1)) } := by
    simp only [ChipView.written, if_true, hptr, hkeeps, hat, nextPtr_ofNat hroom]
  rw [hwritten]
  refine ⟨fun j hj => ?_, by rw [List.length_append]; rfl, hkeeps⟩
  rcases Nat.lt_succ_iff_lt_or_eq.1 (by simpa using hj) with hlt | rfl
  · rw [Memory.read_write_other _ _ (by omega), List.getElem_append_left hlt, hbytes j hlt]
  · rw [Memory.read_write_same, List.getElem_append_right (le_refl _)]
    simp

/-- Writing bytes puts them after those the FIFO holds. -/
theorem FifoHolds.append (hc : c.legal = true) {sent bytes xs : List Byte} (h : FifoHolds c v sent)
    (hlen : xs.length = bytes.length) (hroom : bytes ≠ [] → c.fifoTxBase.toNat + sent.length + bytes.length ≤ 255) :
    FifoHolds c ((List.zipWith (writeEvent c c.chip.fifo) bytes xs).foldl (ChipView.observe c) v) (sent ++ bytes) := by
  induction bytes generalizing v sent xs with
  | nil => simpa using h
  | cons b bytes ih =>
    obtain ⟨x, xs, rfl⟩ := List.exists_cons_of_length_eq_add_one hlen
    have hroom := hroom (List.cons_ne_nil _ _)
    rw [List.length_cons] at hroom
    have hrest := ih (h.push b (by omega)) (Nat.succ.inj hlen) (fun _ => by simp; omega)
    simpa [observe_writeEvent hc] using hrest

/-! ## What is staged -/

/-- Of the bytes handed in so far, those that fit a packet (spec/43_packet_tx.md R143). -/
def accepted (c : UnitCfg) (handed : List Byte) : List Byte := handed.take (c.maxPkt - c.fifoTxBase.toNat)

/-- Of the bytes handed in so far the chip holds those that fit, with their number in the length register. -/
structure Staged (c : UnitCfg) (v : ChipView) (handed : List Byte) : Prop where
  length : v.stored.read c.chip.payloadLength.toNat = some (BitVec.ofNat 8 (accepted c handed).length)
  fifo : FifoHolds c v (accepted c handed)

theorem maxPkt_le_of_legal (hc : c.legal = true) : c.maxPkt ≤ 255 := by
  simp only [UnitCfg.legal, Bool.and_eq_true, decide_eq_true_eq] at hc
  tauto

@[simp] theorem accepted_nil (c : UnitCfg) : accepted c [] = [] := List.take_nil

theorem accepted_length_le (c : UnitCfg) (handed : List Byte) :
    (accepted c handed).length ≤ c.maxPkt - c.fifoTxBase.toNat :=
  List.length_take_le _ _

/-- `WRITE` takes what of its bytes still fits behind those accepted before (spec/43_packet_tx.md R141, R142). -/
theorem accepted_append {cur : Byte} {handed : List Byte} (hcur : cur.toNat = (accepted c handed).length)
    (data : List Byte) :
    accepted c (handed ++ data) = accepted c handed ++ data.take (acceptedCount c cur data.length) := by
  have hcount : acceptedCount c cur data.length =
      min (c.maxPkt - c.fifoTxBase.toNat - handed.length) data.length := by
    rw [acceptedCount, capacity, hcur, accepted, List.length_take]
    omega
  rw [accepted, accepted, List.take_append, hcount, ← List.take_take, List.take_length]

/-- After `BEGINPKT` the mode is STANDBY and nothing is staged yet. -/
theorem staged_of_beginpkt (hc : c.legal = true) (m x y z : Byte) :
    Staged c ((beginpktEvents c m x y z).foldl (ChipView.observe c) v) [] := by
  have hreg := payloadLength_mem_configRegisters c.chip
  simp only [beginpktEvents, rmwEvents_eq, List.cons_append, List.nil_append, List.foldl_cons, List.foldl_nil,
    observe_readEvent hc, observe_writeEvent hc, answered_opMode hc, written_opMode hc, written_fifoAddrPtr hc,
    written_configRegister hc hreg, observe_okEvent]
  constructor
  · simp
  · refine ⟨by simp, by simp, ?_⟩
    have hstandby : selectorIs c c.sel.standby
        (maskedUpdate m c.chip.mode.mask (selectorBits c c.sel.standby)) = true :=
      selectorIs_withSelector hc m c.sel.standby
    simp [keepsFifo, hstandby]

/-- A `WRITE` neither changes the mode nor faults the chip. -/
theorem observe_appendEvents_frame (hc : c.legal = true) (data : List Byte) (cur : Byte) (xs : List Byte) (y : Byte) :
    let v' := (appendEvents c data cur xs y).foldl (ChipView.observe c) v
    v'.opMode = v.opMode ∧ v'.faulted = v.faulted := by
  have hreg := payloadLength_mem_configRegisters c.chip
  obtain ⟨-, hmode, hfaulted⟩ := observe_fifoWrites_frame (v := v) hc (data.take (acceptedCount c cur data.length)) xs
  simp only [appendEvents, List.foldl_cons, List.foldl_append, List.foldl_nil, observe_readEvent hc,
    observe_writeEvent hc, answered_configRegister hc hreg, written_configRegister hc hreg, observe_okEvent]
  exact ⟨hmode, hfaulted⟩

/-- A `WRITE` against an honest chip in LoRa stages its block behind the others: the length the chip reports is the one
stored, so the unit accepts what fits. -/
theorem Staged.write (hc : c.legal = true) {handed data xs : List Byte} {cur y : Byte} (h : Staged c v handed)
    (hlen : xs.length = (data.take (acceptedCount c cur data.length)).length)
    (hhonest : chipHonest c v (appendEvents c data cur xs y) = true) (hfaulted : v.faulted = false)
    (hlora : inLoRa c v.opMode = true) :
    Staged c ((appendEvents c data cur xs y).foldl (ChipView.observe c) v) (handed ++ data) := by
  obtain ⟨hstored, hfifo⟩ := h
  have hreg := payloadLength_mem_configRegisters c.chip
  have hmax := maxPkt_le_of_legal hc
  have hcur : cur.toNat = (accepted c handed).length := by
    rw [appendEvents, chipHonest_readEvent hc, Bool.and_eq_true] at hhonest
    rw [eq_of_answerAllowed hc hreg hfaulted hlora hstored hhonest.1, BitVec.toNat_ofNat]
    have := accepted_length_le c handed
    omega
  have happend := accepted_append hcur data
  have hall := accepted_length_le c (handed ++ data)
  rw [happend, List.length_append] at hall
  have hfifo' := hfifo.append hc hlen fun hne => by
    have := List.length_pos_of_ne_nil hne
    omega
  simp only [appendEvents, List.foldl_cons, List.foldl_append, List.foldl_nil, observe_readEvent hc,
    observe_writeEvent hc, answered_configRegister hc hreg, written_configRegister hc hreg, observe_okEvent]
  constructor
  · rw [Memory.read_write_same, happend, List.length_append, hcur]
    simp [acceptedCount]
  · rw [happend]
    exact hfifo'.of_same rfl rfl rfl

theorem Appends.frame (hc : c.legal = true) {blocks : List (List Byte)} (h : Appends c blocks events) :
    let v' := events.foldl (ChipView.observe c) v
    v'.opMode = v.opMode ∧ v'.faulted = v.faulted := by
  induction h generalizing v with
  | nil => exact ⟨rfl, rfl⟩
  | @cons data blocks cur y xs events hlen h ih =>
    obtain ⟨hmode, hfaulted⟩ := observe_appendEvents_frame (v := v) hc data cur xs y
    simp only [List.foldl_append]
    rw [← hmode, ← hfaulted]
    exact ih

/-- So do all of them, block by block. -/
theorem Staged.writes (hc : c.legal = true) {blocks : List (List Byte)} {handed : List Byte}
    (h : Appends c blocks events) (hstaged : Staged c v handed) (hhonest : chipHonest c v events = true)
    (hfaulted : v.faulted = false) (hlora : inLoRa c v.opMode = true) :
    Staged c (events.foldl (ChipView.observe c) v) (handed ++ blocks.flatten) := by
  induction h generalizing v handed with
  | nil => simpa using hstaged
  | @cons data blocks cur y xs events hlen h ih =>
    rw [chipHonest_append, Bool.and_eq_true] at hhonest
    obtain ⟨hdata, hblocks⟩ := hhonest
    obtain ⟨hmode, hfault⟩ := observe_appendEvents_frame (v := v) hc data cur xs y
    have hnext := ih (hstaged.write hc hlen hdata hfaulted hlora) hblocks (hfault.trans hfaulted) (by rwa [hmode])
    rwa [List.foldl_append, List.flatten_cons, ← List.append_assoc]

end

/-- Settles O54: `BEGINPKT` stages nothing yet, and each `WRITE` stages its block behind those before it. -/
theorem payloadIntegrity : Obligations.PayloadIntegrity := by
  unfold Obligations.PayloadIntegrity
  intro s t blocks hc hrun
  obtain ⟨m, x, y, z, events, happends, hlog⟩ := log_of_packet hrun
  rw [hlog, chipView_append, List.foldl_append]
  intro hhonest hfaulted hlora
  have hhonest := chipHonest_of_append hhonest
  rw [chipHonest_append, Bool.and_eq_true] at hhonest
  have hbegun := staged_of_beginpkt (v := chipView s.cfg s.log) hc m x y z
  obtain ⟨hmode, hfault⟩ := happends.frame hc (v := (beginpktEvents s.cfg m x y z).foldl _ (chipView s.cfg s.log))
  rw [loraDuty, hmode] at hlora
  obtain ⟨hlength, hbytes, hptr, -⟩ := hbegun.writes hc happends hhonest.2 (hfault.symm.trans hfaulted) hlora
  exact ⟨hlength, hbytes, hptr⟩

end Sys2Proof.Machine
end

section
/-! SUPPORT. The sequences of the receive commands with every transfer answered: the header mode, the bytes read from
the FIFO, the extraction of a payload, and the assignments of `ONRECV` (spec/44_packet_rx.md R151, R155, R162). -/

namespace Sys2Proof.Machine

open Sys2Proof

section
variable {s : State} {q : Seq} {es : List Input} {events : List Event}

/-- A response ends the command, whatever its status and data. -/
@[simp] theorem startScript_respond (st : Status) (result : BitVec 32) (data : List Byte) :
    startScript (.finish (.respond st result data)) (underway s q es events) =
      afterEvents s es (events ++ [.response st result data]) :=
  (runScript_finish es _ (underway s q es events)).trans
    (underway_respond (s := s) (q := q) (es := es) (events := events) st result data)

/-! ## The header mode -/

@[simp] theorem startScript_setImplicit (c : UnitCfg) (b : Bool) (g x : Byte) (p : Script) :
    startScript (setImplicit c b p) (underway s q (.bus (.byte g) :: .bus (.byte x) :: es) events) =
      startScript p (underway { s with implicitShadow := b } ((q.push g).push x) es
        (events ++ rmwEvents c c.chip.modemConfig1 c.chip.implicitHeader.mask
          (fieldPlace c.chip.implicitHeader (bitByte b)) g x)) := by
  simp [setImplicit]

/-- `HeaderForSize` makes the events of the claims, and the shadow tells whether the size is 0. -/
@[simp] theorem startScript_headerForSize (c : UnitCfg) (size g x z : Byte) (p : Script) :
    startScript (headerForSize c size p) (underway s q (busAnswers (headerAnswers size g x z) ++ es) events) =
      startScript p (underway { s with implicitShadow := decide (size ≠ 0) }
        ((headerAnswers size g x z).foldl Seq.push q) es (events ++ headerEvents c size g x z)) := by
  by_cases hsize : size = 0#8
  · simp [headerForSize, headerAnswers, headerEvents, hsize]
  · simp [headerForSize, headerAnswers, headerEvents, hsize]

/-! ## Extracting a payload -/

@[simp] theorem readFifo_zero (c : UnitCfg) (k : List Byte → Script) (got : List Byte) :
    readFifo c k 0 got = k got := rfl
@[simp] theorem readFifo_succ (c : UnitCfg) (k : List Byte → Script) (n : Nat) (got : List Byte) :
    readFifo c k (n + 1) got = busRead c c.chip.fifo fun b => readFifo c k n (got ++ [b]) := rfl

/-- Each answer is one byte of the FIFO register, kept behind those before it. -/
theorem startScript_readFifo (c : UnitCfg) (k : List Byte → Script) (got bytes : List Byte) :
    startScript (readFifo c k bytes.length got) (underway s q (busAnswers bytes ++ es) events) =
      startScript (k (got ++ bytes)) (underway s (bytes.foldl Seq.push q) es
        (events ++ bytes.map (readEvent c c.chip.fifo))) := by
  induction bytes generalizing got q events with
  | nil => simp
  | cons b bytes ih => simp [ih]

/-- The events of `ExtractPayload`: the pointer from the chip's address `a`, the length `len`, then the bytes `p`. -/
def extractEvents (c : UnitCfg) (implicit : Bool) (a x len : Byte) (p : List Byte) : List Event :=
  [readEvent c c.chip.fifoRxCurrent a, writeEvent c c.chip.fifoAddrPtr a x,
    readEvent c (lengthRegister c implicit) len] ++ p.map (readEvent c c.chip.fifo)

/-- `ExtractPayload` goes on with as many bytes as the chip reports. -/
theorem startScript_extractPayload (c : UnitCfg) (implicit : Bool) (k : List Byte → Script) (a x : Byte) {len : Byte}
    {p : List Byte} (hlen : p.length = len.toNat) :
    startScript (extractPayload c implicit k) (underway s q (busAnswers ([a, x, len] ++ p) ++ es) events) =
      startScript (k p) (underway s (([a, x, len] ++ p).foldl Seq.push q) es
        (events ++ extractEvents c implicit a x len p)) := by
  simp [extractPayload, ← hlen, startScript_readFifo, extractEvents]

/-! ## The assignments of `ONRECV` -/

@[simp] theorem apply_cbArmed_underway (b : Bool) :
    Assign.apply (.cbArmed b) (underway s q es events) = underway { s with cbArmed := b } q es events := rfl

@[simp] theorem apply_irqPending_underway (b : Bool) :
    Assign.apply (.irqPending b) (underway s q es events) = underway { s with irqPending := b } q es events := rfl

@[simp] theorem apply_arm_underway :
    Assign.apply .arm (underway s q es events) = underway s q es (events ++ [.arm]) := by
  simp [Assign.apply, State.emit, underway]

@[simp] theorem apply_disarm_underway :
    Assign.apply .disarm (underway s q es events) = underway s q es (events ++ [.disarm]) := by
  simp [Assign.apply, State.emit, underway]

end

end Sys2Proof.Machine
end

section
/-! CERTIFICATES. The receive commands, the signal read-outs and `ONRECV` with the bus answering (spec/44_packet_rx.md
R150 to R162). -/

namespace Sys2Proof.Machine

open Sys2Proof

@[simp] theorem wf_receive (c : UnitCfg) (size : Byte) : (Instr.receive size).wf c = true := rfl
@[simp] theorem wf_rxpoll (c : UnitCfg) (size : Byte) : (Instr.rxpoll size).wf c = true := rfl
@[simp] theorem wf_rdpayload (c : UnitCfg) : Instr.rdpayload.wf c = true := rfl
@[simp] theorem wf_pktrssi (c : UnitCfg) : Instr.pktrssi.wf c = true := rfl
@[simp] theorem wf_pktsnr (c : UnitCfg) : Instr.pktsnr.wf c = true := rfl
@[simp] theorem wf_onrecv (c : UnitCfg) (en : Bool) : (Instr.onrecv en).wf c = true := rfl

/-! ## Receiving a packet -/

/-- Settles O38: the sequence is `ExtractPayload`, and the response carries the bytes it extracted. -/
theorem rdpayloadReturnsPayload : Obligations.RdpayloadReturnsPayload := by
  unfold Obligations.RdpayloadReturnsPayload
  intro s a x len p rest hready hlen hin c lenReg
  rw [exec_starts (wf_rdpayload s.cfg) (lifecycleAllows_of_ready hready) hin, sequenceOf, seqRdpayload,
    startScript_extractPayload s.cfg s.implicitShadow _ a x hlen]
  simp [extractEvents, lengthRegister, hlen, lenReg, c]

/-- Settles O35: the sequence is `HeaderForSize`, then `SetMode`. -/
theorem receiveEntersContinuous : Obligations.ReceiveEntersContinuous := by
  unfold Obligations.ReceiveEntersContinuous
  intro s size g x z m y rest hready hin c
  rw [exec_starts (wf_receive s.cfg size) (lifecycleAllows_of_ready hready) hin]
  simp [sequenceOf, seqReceive, afterEvents, withSelector, maskedUpdate, c]

/-- What `RXPOLL` does behind the flag byte `v` it has read. -/
def afterRxFlags (c : UnitCfg) (v : Byte) : Script :=
  if rxDoneAlone c v then respondOk 1
  else busRead c c.chip.opMode fun m =>
    if fieldGet c.chip.mode m = c.sel.rxSingle.setWidth 8 then respondOk 0
    else setMode c c.sel.rxSingle (respondOk 0)

theorem seqRxpoll_eq (c : UnitCfg) (size : Byte) :
    seqRxpoll c size = headerForSize c size (busRead c c.chip.irqFlags fun v =>
      busWrite c c.chip.irqFlags v (afterRxFlags c v)) := rfl

theorem afterRxFlags_done (c : UnitCfg) : afterRxFlags c c.chip.rxDone.mask = respondOk 1 := by
  simp [afterRxFlags, rxDoneAlone]

theorem afterRxFlags_other {c : UnitCfg} {v : Byte} (hv : v ≠ c.chip.rxDone.mask) :
    afterRxFlags c v = busRead c c.chip.opMode fun m =>
      if fieldGet c.chip.mode m = c.sel.rxSingle.setWidth 8 then respondOk 0
      else setMode c c.sel.rxSingle (respondOk 0) := by
  simp [afterRxFlags, rxDoneAlone, hv]

/-- `RXPOLL` sets the header mode and writes the flags back as read; the flags decide what follows. -/
theorem exec_rxpoll_flags {s : State} {size g x z v y : Byte} {es : List Input} (hready : s.ustate = .ready)
    (hin : s.inputs = busAnswers (headerAnswers size g x z) ++ .bus (.byte v) :: .bus (.byte y) :: es) :
    exec (.rxpoll size) s = .next (startScript (afterRxFlags s.cfg v)
      (underway { s with implicitShadow := decide (size ≠ 0) }
        ((headerAnswers size g x z ++ [v, y]).foldl Seq.push (.fg (.rxpoll size) [])) es
        (headerEvents s.cfg size g x z ++
          [readEvent s.cfg s.cfg.chip.irqFlags v, writeEvent s.cfg s.cfg.chip.irqFlags v y]))) := by
  rw [exec_starts (wf_rxpoll s.cfg size) (lifecycleAllows_of_ready hready) hin]
  simp [sequenceOf, seqRxpoll_eq]

/-- Settles O36: RX-done alone goes straight to the answer 1. -/
theorem rxpollReportsLonePacket : Obligations.RxpollReportsLonePacket := by
  unfold Obligations.RxpollReportsLonePacket
  intro s size g x z y rest hready hin c
  rw [exec_rxpoll_flags hready (by simpa using hin), afterRxFlags_done]
  simp [afterEvents, c]

/-- Settles O37: with other flags the selector read decides whether RX-SINGLE is set before the answer 0. -/
theorem rxpollRearmsSingle : Obligations.RxpollRearmsSingle := by
  unfold Obligations.RxpollRearmsSingle
  intro s size g x z v y m m' u rest hready hv c events
  refine ⟨fun hsingle hin => ?armed, fun hsingle hin => ?rearmed⟩
  case armed =>
    rw [exec_rxpoll_flags hready (by simpa using hin), afterRxFlags_other hv]
    simp [hsingle, afterEvents, events, c]
  case rearmed =>
    rw [exec_rxpoll_flags hready (by simpa using hin), afterRxFlags_other hv]
    simp [hsingle, afterEvents, withSelector, maskedUpdate, events, c]

/-! ## The signal read-outs -/

/-- The difference of a byte and an offset up to `2 ^ 31` fits a signed 32-bit word. -/
theorem toInt_ofInt_sub_offset (raw : Byte) {offset : Nat} (h : offset ≤ 2 ^ 31) :
    (BitVec.ofInt 32 ((raw.toNat : Int) - offset)).toInt = (raw.toNat : Int) - offset := by
  have hraw := raw.isLt
  exact BitVec.toInt_ofInt_eq_self (by decide) (by omega) (by omega)

/-- Below the split frequency the low offset counts. -/
theorem rssiResult_toInt_of_lt {c : UnitCfg} {f : BitVec 32} (hf : f.toNat < c.rssiSplitHz)
    (h : c.rssiOffsetLow ≤ 2 ^ 31) (raw : Byte) :
    (rssiResult c f raw).toInt = (raw.toNat : Int) - c.rssiOffsetLow := by
  rw [rssiResult, if_pos hf, toInt_ofInt_sub_offset raw h]

/-- From the split frequency on the high offset counts. -/
theorem rssiResult_toInt_of_le {c : UnitCfg} {f : BitVec 32} (hf : c.rssiSplitHz ≤ f.toNat)
    (h : c.rssiOffsetHigh ≤ 2 ^ 31) (raw : Byte) :
    (rssiResult c f raw).toInt = (raw.toNat : Int) - c.rssiOffsetHigh := by
  rw [rssiResult, if_neg (Nat.not_lt.2 hf), toInt_ofInt_sub_offset raw h]

/-- Settles O39: with a frequency shadow the sequence is one read, without one it raises the error at once. -/
theorem pktrssiSubtractsOffset : Obligations.PktrssiSubtractsOffset := by
  unfold Obligations.PktrssiSubtractsOffset
  intro s raw rest hready
  refine ⟨fun f hfreq hin => ⟨rssiResult s.cfg f raw, ?read, fun hf h => rssiResult_toInt_of_lt hf h raw,
    fun hf h => rssiResult_toInt_of_le hf h raw⟩, fun hfreq => ?refused⟩
  case read =>
    rw [exec_starts (wf_pktrssi s.cfg) (lifecycleAllows_of_ready hready) hin]
    simp [sequenceOf, seqPktrssi, hfreq]
  case refused =>
    rw [exec_starts (wf_pktrssi s.cfg) (lifecycleAllows_of_ready hready) rfl]
    simp [sequenceOf, seqPktrssi, hfreq]

/-- Settles O40: the sequence is one read, and sign extension keeps the signed value. -/
theorem pktsnrSignExtends : Obligations.PktsnrSignExtends := by
  unfold Obligations.PktsnrSignExtends
  intro s raw rest hready hin
  refine ⟨snrResult raw, BitVec.toInt_signExtend_of_le (by decide), ?_⟩
  rw [exec_starts (wf_pktsnr s.cfg) (lifecycleAllows_of_ready hready) hin]
  simp [sequenceOf, seqPktsnr]

/-! ## The callback -/

/-- Settles O41: both sequences are assignments and requests alone, so the inputs stay as they are. -/
theorem onrecvArmsAndDisarms : Obligations.OnrecvArmsAndDisarms := by
  unfold Obligations.OnrecvArmsAndDisarms
  intro s hready
  have starts (en : Bool) :
      exec (.onrecv en) s = .next (startScript (seqOnrecv en) (underway s (.fg (.onrecv en) []) s.inputs [])) :=
    exec_starts (wf_onrecv s.cfg en) (lifecycleAllows_of_ready hready) rfl
  constructor
  · rw [starts true]
    simp [seqOnrecv, afterEvents]
  · rw [starts false]
    simp [seqOnrecv, afterEvents]

end Sys2Proof.Machine
end

section
/-! CERTIFICATES. `INIT` with the bus answering (spec/45_init.md R170, R171): what comes before the version byte is read,
and the two ways on from it. -/

namespace Sys2Proof.Machine

open Sys2Proof

@[simp] theorem wf_init (c : UnitCfg) : Instr.init.wf c = true := rfl

/-! ## The sequence in its parts -/

/-- What `INIT` does on the accepted silicon, behind the version byte. -/
def configureStandby (c : UnitCfg) : Script :=
  setLongRange c true <| busWrite c c.chip.fifoTxBase c.fifoTxBase <| busWrite c c.chip.fifoRxBase c.fifoRxBase <|
    setImplicit c false <| setMode c c.sel.standby <| .assign (.ustate .ready) (respondOk 0)

/-- What `INIT` does behind the version byte `v` it has read. -/
def afterVersion (c : UnitCfg) (v : Byte) : Script :=
  if versionAccepted c v then configureStandby c
  else .assign (.ustate .failed) <| raise .errVersion (v.setWidth 32)

theorem seqInit_eq (c : UnitCfg) :
    seqInit c = .assign (.ustate .uninit) (.assign (.cbArmed false) (.assign (.irqPending false)
      (.assign .disarm (busRead c c.chip.version (afterVersion c))))) := rfl

theorem afterVersion_accepted (c : UnitCfg) : afterVersion c c.versionOk = configureStandby c := by
  simp [afterVersion, versionAccepted]

theorem afterVersion_other {c : UnitCfg} {v : Byte} (hv : v ≠ c.versionOk) :
    afterVersion c v = .assign (.ustate .failed) (raise .errVersion (v.setWidth 32)) := by
  simp [afterVersion, versionAccepted, hv]

/-! ## The long-range switch on -/

/-- The byte `SetLongRange(1)` ends with where it has read `m`: the selector as read, the long-range bit set. -/
def longRangeOn (c : UnitCfg) (m : Byte) : Byte :=
  maskedUpdate (withLongRange c (withSelector c m c.sel.sleep) true) c.chip.mode.mask (m &&& c.chip.mode.mask)

/-- The events of `SetLongRange(1)` that reads `m` (spec/41_mode_control.md R113). -/
def longRangeOnEvents (c : UnitCfg) (m x1 x2 x3 : Byte) : List Event :=
  [readEvent c c.chip.opMode m, writeEvent c c.chip.opMode (withSelector c m c.sel.sleep) x1,
    writeEvent c c.chip.opMode (withLongRange c (withSelector c m c.sel.sleep) true) x2,
    writeEvent c c.chip.opMode (longRangeOn c m) x3]

section
variable {s : State} {q : Seq} {es : List Input} {events : List Event}

@[simp] theorem apply_ustate_underway (v : UState) :
    Assign.apply (.ustate v) (underway s q es events) = underway { s with ustate := v } q es events := rfl

/-- Of the three assignments to the shadow the last stays. -/
@[simp] theorem startScript_setLongRange_on (c : UnitCfg) (m x1 x2 x3 : Byte) (p : Script) :
    startScript (setLongRange c true p)
        (underway s q (.bus (.byte m) :: .bus (.byte x1) :: .bus (.byte x2) :: .bus (.byte x3) :: es) events) =
      startScript p (underway { s with modeShadow := some (longRangeOn c m) }
        ((((q.push m).push x1).push x2).push x3) es (events ++ longRangeOnEvents c m x1 x2 x3)) := by
  simp [setLongRange, longRangeOnEvents, longRangeOn]

/-! ## The two ways on -/

/-- The configuration behind the version byte makes ten transfers and ends READY in standby. -/
theorem startScript_configureStandby (c : UnitCfg) (m0 x1 x2 x3 y1 y2 g z m u : Byte) :
    startScript (configureStandby c)
        (underway s q (busAnswers [m0, x1, x2, x3, y1, y2, g, z, m, u] ++ es) events) =
      { afterEvents s es (events ++ (longRangeOnEvents c m0 x1 x2 x3 ++
          [writeEvent c c.chip.fifoTxBase c.fifoTxBase y1, writeEvent c c.chip.fifoRxBase c.fifoRxBase y2] ++
          rmwEvents c c.chip.modemConfig1 c.chip.implicitHeader.mask (fieldPlace c.chip.implicitHeader 0) g z ++
          rmwEvents c c.chip.opMode c.chip.mode.mask (selectorBits c c.sel.standby) m u ++ [okEvent 0]))
        with ustate := .ready, implicitShadow := false, modeShadow := some (withSelector c m c.sel.standby) } := by
  simp [configureStandby, afterEvents, bitByte]

end

/-- In every lifecycle state `INIT` disarms and reads the version byte, which decides what follows. -/
theorem exec_init_version {s : State} {v : Byte} {es : List Input} (hin : s.inputs = .bus (.byte v) :: es) :
    exec .init s = .next (startScript (afterVersion s.cfg v)
      (underway { s with ustate := .uninit, cbArmed := false, irqPending := false } (.fg .init [v]) es
        [.disarm, readEvent s.cfg s.cfg.chip.version v])) := by
  rw [exec_starts (wf_init s.cfg) (lifecycleAllows_init s) hin]
  simp [sequenceOf, seqInit_eq, Seq.push]

/-- Settles O13: the version byte is the accepted one, so the configuration follows it. -/
theorem initCompletes : Obligations.InitCompletes := by
  unfold Obligations.InitCompletes
  intro s m0 x1 x2 x3 y1 y2 g z m u rest hin c w1 w2 w3
  have hanswers : s.inputs =
      .bus (.byte c.versionOk) :: (busAnswers [m0, x1, x2, x3, y1, y2, g, z, m, u] ++ rest) := hin
  rw [exec_init_version hanswers, afterVersion_accepted, startScript_configureStandby]
  simp [afterEvents, longRangeOnEvents, longRangeOn, withSelector, withLongRange, maskedUpdate, c, w1, w2, w3]

/-- Settles O14: another version byte ends the sequence behind its first transfer. -/
theorem initRefusesOtherSilicon : Obligations.InitRefusesOtherSilicon := by
  unfold Obligations.InitRefusesOtherSilicon
  refine ⟨rfl, fun s v rest hin hv => ?_⟩
  rw [exec_init_version hin, afterVersion_other hv]
  simp [afterEvents]

end Sys2Proof.Machine
end

section
/-! SUPPORT. What a step can leave in `u.seq`, and that a unit which is not ready leaves the command port alone
(spec/60_exceptions.md R188, R191, spec/30_encoding.md R70). -/

namespace Sys2Proof.Machine

open Sys2Proof

section
variable {s t u : State} {i : Instr}

/-! ## The position after a run -/

/-- A run ends its sequence or leaves it at a later position. -/
theorem runScript_seq (es : List Input) (p : Script) (s : State) :
    (runScript es p.skip s).seq = .idle ∨
      ∃ bytes : List Byte, (runScript es p.skip s).seq = bytes.foldl Seq.push s.seq := by
  by_cases h : (runScript es p.skip s).seq = .idle
  · exact .inl h
  · obtain ⟨bytes, hseq, -⟩ := runScript_append h
    exact .inr ⟨bytes, hseq⟩

/-- A run that starts in a command stays in that command or ends it. -/
theorem runScript_seq_fg {trail : List Byte} (es : List Input) (p : Script) (h : s.seq = .fg i trail) :
    (runScript es p.skip s).seq = .idle ∨ ∃ after, (runScript es p.skip s).seq = .fg i after := by
  refine (runScript_seq es p s).imp_right fun ⟨bytes, hseq⟩ => ⟨trail ++ bytes, ?_⟩
  rw [hseq, h, foldl_push_fg]

/-- So does a run that starts in the handler. -/
theorem runScript_seq_irq {trail : List Byte} (es : List Input) (p : Script) (h : s.seq = .irq trail) :
    (runScript es p.skip s).seq = .idle ∨ ∃ after, (runScript es p.skip s).seq = .irq after := by
  refine (runScript_seq es p s).imp_right fun ⟨bytes, hseq⟩ => ⟨trail ++ bytes, ?_⟩
  rw [hseq, h, foldl_push_irq]

theorem runHandler_seq (s : State) : (runHandler s).seq = .idle ∨ ∃ after, (runHandler s).seq = .irq after :=
  runScript_seq_irq s.inputs (seqHandler s.cfg s.implicitShadow) (s := s.enterHandler) rfl

theorem exec_seq (h : exec i s = .next t) : t.seq = .idle ∨ ∃ trail, t.seq = .fg i trail := by
  rcases exec_refused_or_runs i s with ⟨st, href⟩ | hrun
  · obtain rfl := Host.Outcome.next.inj (h.symm.trans (href s.inputs))
    exact .inl rfl
  · obtain rfl := Host.Outcome.next.inj (h.symm.trans (hrun s.inputs))
    exact runScript_seq_fg _ _ (begun_seq i s)

theorem atomicallyExec_seq (h : atomicallyExec (exec i) s = .next t) : t.seq = .idle ∨ ∃ trail, t.seq = .fg i trail := by
  obtain ⟨u, hu⟩ := exec_answers i s.forOneTransfer
  obtain rfl := Host.Outcome.next.inj (h.symm.trans (atomicallyExec_of_exec hu))
  exact exec_seq (t := u) hu

theorem absorb_idle (e : Input) (h : s.seq = .idle) : (absorb e s).seq = .idle := by
  cases e with
  | dio0Rise => simpa [absorb] using h
  | rst => rfl
  | _ => exact h

theorem idleStep_idle (h : s.seq = .idle) : (idleStep s).seq = .idle := by
  unfold idleStep
  split
  · exact h
  · exact absorb_idle _ h

/-- All that a step can leave in `u.seq`: a sequence is entered from the idle unit alone, a command where the unit is ready
and the handler where an edge is pending, and it goes on from within. -/
theorem step_seq (h : step s = .next t) :
    t.seq = .idle ∨
    (∃ i after, t.seq = .fg i after ∧ (s.ready = true ∨ ∃ before, s.seq = .fg i before)) ∨
    (∃ after, t.seq = .irq after ∧ ((s.seq = .idle ∧ s.irqPending = true) ∨ ∃ before, s.seq = .irq before)) := by
  rcases step_cases s with ⟨i, trail, hseq, -⟩ | ⟨trail, hseq, -⟩ | ⟨hidle, -, he⟩ | ⟨hidle, -, hp, he⟩ |
    ⟨i, u, hidle, -, hp, -, he⟩ | ⟨st, u, -, -, -, -, he⟩ | ⟨hidle, -, -, -, he⟩
  · rw [step_of_remaining (remaining_fg hseq), ← residual_skip] at h
    cases h
    exact (runScript_seq_fg _ _ hseq).imp_right fun ⟨after, hafter⟩ => .inl ⟨i, after, hafter, .inr ⟨trail, hseq⟩⟩
  · rw [step_of_remaining (remaining_irq hseq), ← residual_skip] at h
    cases h
    exact (runScript_seq_irq _ _ hseq).imp_right fun ⟨after, hafter⟩ => .inr ⟨after, hafter, .inr ⟨trail, hseq⟩⟩
  · cases he.symm.trans h
    exact .inl (idleStep_idle hidle)
  · cases he.symm.trans h
    exact (runHandler_seq _).imp_right fun ⟨after, hafter⟩ => .inr ⟨after, hafter, .inl ⟨hidle, hp⟩⟩
  · exact (atomicallyExec_seq (he.symm.trans h)).imp_right fun ⟨after, hafter⟩ =>
      .inl ⟨i, after, hafter, .inl (ready_iff.2 ⟨hidle, hp⟩)⟩
  · cases he.symm.trans h
    exact .inl rfl
  · cases he.symm.trans h
    exact .inl (idleStep_idle hidle)

/-! ## The command port -/

/-- From `s` to `t` nothing was taken from the command port. -/
def PortGrows (s t : State) : Prop := s.cmdWords <+: t.cmdWords ∧ s.cmdBytes <+: t.cmdBytes

theorem PortGrows.of_same (hwords : t.cmdWords = s.cmdWords) (hbytes : t.cmdBytes = s.cmdBytes) : PortGrows s t := by
  simp [PortGrows, hwords, hbytes]

theorem PortGrows.trans (h : PortGrows s t) (h' : PortGrows t u) : PortGrows s u :=
  ⟨h.1.trans h'.1, h.2.trans h'.2⟩

theorem portGrows_present (s : State) (w : CmdWord) (bytes : List Byte) : PortGrows s (s.present w bytes) :=
  ⟨List.prefix_append _ _, List.prefix_append _ _⟩

theorem portGrows_settle (p : Script) (s : State) : PortGrows s (p.settle s).2 :=
  settle_keeps (P := PortGrows s) (fun a t h => h.trans (.of_same (by cases a <;> rfl) (by cases a <;> rfl))) p s
    (.of_same rfl rfl)

theorem portGrows_close (p : Script) (s : State) : PortGrows s (p.close s) := by
  cases p with
  | finish f => cases f <;> exact .of_same rfl rfl
  | _ => exact .of_same rfl rfl

theorem portGrows_busFail (s : State) : PortGrows s s.busFail := by
  unfold State.busFail
  split <;> exact .of_same rfl rfl

/-- A sequence takes nothing from the command port, and what the host presents meanwhile comes behind. -/
theorem portGrows_runScript (es : List Input) (p : Script) (s : State) : PortGrows s (runScript es p s) := by
  refine runScript_induct (Inv := fun _ => PortGrows s) (hstop := ?stop) (hwait := ?wait) (hbyte := ?byte)
    (herror := ?error) (hrst := ?rst) (hedge := ?edge) (hcommand := ?command) (htake := ?take) es p s (.of_same rfl rfl)
  case stop => exact fun p t es h _ => h.trans (portGrows_close p { t with inputs := es })
  case wait => exact fun _ _ _ h _ => h
  case byte => exact fun p t a d b h _ => h.trans (portGrows_settle (p.feed b) (t.transferred a d b))
  case error => exact fun _ t a d es h _ => h.trans (portGrows_busFail { t with inputs := es, log := _ })
  case rst => exact fun _ _ _ _ _ h _ => h
  case edge => exact fun _ t h => h.trans (.of_same (latchEdge_cmdWords t) (latchEdge_cmdBytes t))
  case command => exact fun _ t w bytes h => h.trans (portGrows_present t w bytes)
  case take => exact fun _ _ h => h

theorem portGrows_absorb (e : Input) (s : State) : PortGrows s (absorb e s) := by
  cases e with
  | dio0Rise => exact .of_same (latchEdge_cmdWords s) (latchEdge_cmdBytes s)
  | command w bytes => exact portGrows_present s w bytes
  | _ => exact .of_same rfl rfl

theorem portGrows_idleStep (s : State) : PortGrows s (idleStep s) := by
  unfold idleStep
  split
  · exact .of_same rfl rfl
  · rename_i e rest _
    exact portGrows_absorb e { s with inputs := rest }

theorem portGrows_runHandler (s : State) : PortGrows s (runHandler s) :=
  portGrows_runScript s.inputs (seqHandler s.cfg s.implicitShadow) s.enterHandler

/-- A unit that is not ready takes nothing from the command port. -/
theorem portGrows_step (h : step s = .next t) (hready : s.ready = false) : PortGrows s t := by
  have hbusy : s.seq = .idle → s.irqPending = false → False := fun hidle hp => by
    rw [ready_iff.2 ⟨hidle, hp⟩] at hready
    cases hready
  rcases step_cases s with ⟨i, trail, hseq, -⟩ | ⟨trail, hseq, -⟩ | ⟨-, -, he⟩ | ⟨-, -, -, he⟩ |
    ⟨_, _, hidle, -, hp, -, -⟩ | ⟨_, _, hidle, -, hp, -, -⟩ | ⟨hidle, -, hp, -, -⟩
  · rw [step_of_remaining (remaining_fg hseq)] at h
    cases h
    exact portGrows_runScript _ _ s
  · rw [step_of_remaining (remaining_irq hseq)] at h
    cases h
    exact portGrows_runScript _ _ s
  · cases he.symm.trans h
    exact portGrows_idleStep s
  · cases he.symm.trans h
    exact portGrows_runHandler s.forOneTransfer
  · exact (hbusy hidle hp).elim
  · exact (hbusy hidle hp).elim
  · exact (hbusy hidle hp).elim

end

end Sys2Proof.Machine
end

section
/-! SUPPORT. How many steps a sequence takes whose transfers are all answered, and the handler on such answers
(spec/20_memory.md R45, spec/60_exceptions.md R189). -/

namespace Sys2Proof.Machine

open Sys2Proof

/-- Answered these bytes, the script makes one transfer for each and has then ended. -/
def Script.Takes : Script → List Byte → Prop
  | p, [] => ∃ f, p.skip = .finish f
  | p, b :: bytes => (∃ ad, p.skip.request = some ad) ∧ (p.skip.feed b).Takes bytes

section
variable {s : State} {p q : Script} {b : Byte} {bytes : List Byte} {rest : List Input}

@[simp] theorem takes_finish (f : Finish) : (Script.finish f).Takes [] := ⟨f, rfl⟩
@[simp] theorem takes_busRead (c : UnitCfg) (addr : Addr) (k : Byte → Script) :
    (busRead c addr k).Takes (b :: bytes) ↔ (k b).Takes bytes := and_iff_right ⟨_, rfl⟩
@[simp] theorem takes_busWrite (c : UnitCfg) (addr : Addr) (v : Byte) :
    (busWrite c addr v p).Takes (b :: bytes) ↔ p.Takes bytes := and_iff_right ⟨_, rfl⟩

theorem takes_readFifo (c : UnitCfg) {k : List Byte → Script} (h : ∀ got, (k got).Takes []) (got bytes : List Byte) :
    (readFifo c k bytes.length got).Takes bytes := by
  induction bytes generalizing got with
  | nil => exact h got
  | cons b bytes ih => exact (takes_busRead _ _ _).2 (ih _)

theorem takes_extractPayload (c : UnitCfg) (implicit : Bool) {k : List Byte → Script} (h : ∀ got, (k got).Takes [])
    (a x : Byte) {len : Byte} {bytes : List Byte} (hlen : bytes.length = len.toNat) :
    (extractPayload c implicit k).Takes ([a, x, len] ++ bytes) := by
  simp [extractPayload, ← hlen, takes_readFifo c h]

theorem takes_skip : p.skip.Takes bytes ↔ p.Takes bytes := by
  cases bytes <;> simp only [Script.Takes, skip_skip]

theorem close_of_request {ad : Byte × Byte} (h : p.request = some ad) (s : State) : p.close s = s := by
  cases p with
  | finish f => cases h
  | _ => rfl

/-- A step that is answered a byte feeds it to what is left of the sequence and leaves the later inputs. -/
theorem step_of_byte {a d : Byte} (hrem : remaining s = some q) (hq : q.request = some (a, d))
    (hin : s.inputs = .bus (.byte b) :: rest) :
    step s = .next
      ((q.feed b).skip.close { ((q.feed b).settle (s.transferred a d b)).2 with inputs := rest }) := by
  rw [step_of_remaining hrem, hin]
  simp only [untilAnswer, runScript_cons hq, settle_fst]
  rw [runScript, close_giveBack]
  rfl

/-- What is left behind that step is the script fed the byte. -/
theorem remaining_of_byte (hrem : remaining s = some q) (a d b : Byte) (es : List Input) :
    remaining { ((q.feed b).settle (s.transferred a d b)).2 with inputs := es } = some (q.feed b).skip := by
  have hassigns := (remaining_settled hrem).2.feed b
  have hframe := (Frame.of_unwritten (unwritten_transferred s a d b)).trans (hassigns.frame_settle _)
  exact remaining_of_push hrem (hframe.trans (.of_unwritten (unwritten_inputs _ es))) (settle_seq _ _)

/-- A sequence whose transfers are all answered takes one step for each, and ends as its run ends. -/
theorem runSteps_of_takes (hrem : remaining s = some q) (htakes : q.Takes (b :: bytes))
    (hin : s.inputs = busAnswers (b :: bytes) ++ rest) :
    runSteps (bytes.length + 1) s = some (runScript s.inputs q s) := by
  induction bytes generalizing s q b with
  | nil =>
    obtain ⟨⟨⟨a, d⟩, hq⟩, f, hf⟩ := htakes
    rw [(remaining_settled hrem).1] at hq hf
    refine (runSteps_succ_of_step 0 (step_of_byte hrem hq hin)).trans ?_
    simp [runSteps, hin, runScript_cons hq, settle_fst, hf, Script.close]
  | cons b' bytes ih =>
    obtain ⟨⟨⟨a, d⟩, hq⟩, htakes⟩ := htakes
    rw [(remaining_settled hrem).1] at hq htakes
    obtain ⟨ad, hnext⟩ := htakes.1
    have hstep := step_of_byte (rest := busAnswers (b' :: bytes) ++ rest) hrem hq hin
    rw [close_of_request hnext] at hstep
    rw [List.length_cons, runSteps_succ_of_step _ hstep,
      ih (remaining_of_byte hrem a d b _) (takes_skip.2 htakes) rfl, hin]
    simp only [busAnswers_cons, List.cons_append, runScript_cons hq, settle_fst, runScript_inputs]

/-! ## Serving an edge -/

theorem rstAsserted_of_bus {r : BusResp} (h : s.inputs = .bus r :: rest) : rstAsserted s = false := by
  simp [rstAsserted, h]

theorem step_of_edge (hidle : s.seq = .idle) (hp : s.irqPending = true) (hr : rstAsserted s = false) :
    step s = .next (atomically runHandler s) := by
  simp [step, hidle, hp, hr]

/-- The step that serves an edge is a step of the unit that has entered the handler. -/
theorem step_eq_step_enterHandler (hidle : s.seq = .idle) (hp : s.irqPending = true) (hr : rstAsserted s = false) :
    step s = step s.enterHandler := by
  have hrem : remaining s.enterHandler = some (seqHandler s.cfg s.implicitShadow) := rfl
  rw [step_of_edge hidle hp hr, step_of_remaining hrem, atomically, State.forOneTransfer, runHandler_inputs,
    enterHandler_inputs]

/-- What the handler does behind the flags `v` (spec/60_exceptions.md R189). -/
def afterHandlerFlags (c : UnitCfg) (implicit : Bool) (v : Byte) : Script :=
  if crcClear c v then extractPayload c implicit fun bytes => .finish (.callback bytes) else .finish .silent

theorem seqHandler_eq (c : UnitCfg) (implicit : Bool) :
    seqHandler c implicit = busRead c c.chip.irqFlags fun v =>
      busWrite c c.chip.irqFlags v (afterHandlerFlags c implicit v) := rfl

theorem afterHandlerFlags_clear {c : UnitCfg} {v : Byte} (h : v &&& c.chip.crcError.mask = 0) (implicit : Bool) :
    afterHandlerFlags c implicit v = extractPayload c implicit fun bytes => .finish (.callback bytes) := by
  simp only [afterHandlerFlags, crcClear, h, decide_true, if_true]

theorem afterHandlerFlags_crcError {c : UnitCfg} {v : Byte} (h : v &&& c.chip.crcError.mask ≠ 0) (implicit : Bool) :
    afterHandlerFlags c implicit v = .finish .silent := by
  simp only [afterHandlerFlags, crcClear, h, decide_false, Bool.false_eq_true, if_false]

/-- With every transfer answered the handler reads and writes back the flags in its first two steps, and takes one step for
each transfer behind them. -/
theorem runSteps_handler {v x : Byte} (hidle : s.seq = .idle) (hp : s.irqPending = true)
    (htakes : (afterHandlerFlags s.cfg s.implicitShadow v).Takes bytes)
    (hin : s.inputs = busAnswers ([v, x] ++ bytes) ++ rest) :
    runSteps (bytes.length + 2) s = some (startScript (afterHandlerFlags s.cfg s.implicitShadow v)
      (underway { s with irqPending := false } (.irq [v, x]) (busAnswers bytes ++ rest)
        [readEvent s.cfg s.cfg.chip.irqFlags v, writeEvent s.cfg s.cfg.chip.irqFlags v x])) := by
  have hrem : remaining s.enterHandler = some (seqHandler s.cfg s.implicitShadow) := rfl
  have hall : (seqHandler s.cfg s.implicitShadow).Takes (v :: x :: bytes) := by simpa [seqHandler_eq] using htakes
  have hentered : s.enterHandler =
      underway { s with irqPending := false } (.irq []) (.bus (.byte v) :: .bus (.byte x) :: (busAnswers bytes ++ rest))
        [] := by
    simp [underway, State.enterHandler, hin]
  have hrun : runSteps (bytes.length + 2) s.enterHandler =
      some (startScript (seqHandler s.cfg s.implicitShadow) s.enterHandler) := runSteps_of_takes hrem hall hin
  rw [runSteps_succ_congr _ (step_eq_step_enterHandler hidle hp (rstAsserted_of_bus hin)), hrun, hentered, seqHandler_eq]
  simp [Seq.push]

end

/-! ## How the handler ends -/

section
variable {s : State} {q : Seq} {es : List Input} {events : List Event}

theorem startScript_finish (f : Finish) :
    startScript (.finish f) (underway s q es events) = f.complete (underway s q es events) :=
  runScript_finish es f (underway s q es events)

/-- The event is the last of the sequence and stands on the callback port (spec/60_exceptions.md R190). -/
@[simp] theorem startScript_callback (payload : List Byte) :
    startScript (.finish (.callback payload)) (underway s q es events) =
      { afterEvents s es (events ++ [.callback (.payload payload)]) with callbackPort := some (.payload payload) } := by
  rw [startScript_finish]
  simp [Finish.complete, State.emitCallback, underway, afterEvents]

/-- A sequence that emits nothing leaves the events it has made (spec/60_exceptions.md R191). -/
@[simp] theorem startScript_silent :
    startScript (.finish .silent) (underway s q es events) = afterEvents s es events := by
  rw [startScript_finish]
  rfl

end

end Sys2Proof.Machine
end

section
/-! SUPPORT. What an edge does, and a run against the same run without its edges (spec/60_exceptions.md R187). -/

namespace Sys2Proof.Machine

open Sys2Proof

theorem latchEdge_eq (s : State) : s.latchEdge = { s with irqPending := s.irqPending || s.cbArmed } := by
  unfold State.latchEdge
  split
  · rename_i harmed
    rw [harmed, Bool.or_true]
  · rename_i harmed
    have hsame : (s.irqPending || s.cbArmed) = s.irqPending := by simp [harmed]
    rw [hsame]

/-- The inputs without the edges. -/
def withoutEdges (es : List Input) : List Input := es.filter fun e => decide (e ≠ .dio0Rise)

/-- `u` is `t` without the edges: their inputs are taken out, and the pending bit may differ. -/
def AgreesWithoutEdges (t u : State) : Prop :=
  ∃ pending, u = { t with irqPending := pending, inputs := withoutEdges t.inputs }

section
variable {t u : State}

theorem withoutEdges_cons {e : Input} (h : e ≠ .dio0Rise) (es : List Input) :
    withoutEdges (e :: es) = e :: withoutEdges es := List.filter_cons_of_pos (by simpa using h)

theorem AgreesWithoutEdges.apply (h : AgreesWithoutEdges t u) (a : Assign) :
    AgreesWithoutEdges (a.apply t) (a.apply u) := by
  obtain ⟨b, rfl⟩ := h
  cases a with
  | irqPending v => exact ⟨v, rfl⟩
  | _ => exact ⟨b, rfl⟩

theorem AgreesWithoutEdges.settle (h : AgreesWithoutEdges t u) (p : Script) :
    AgreesWithoutEdges (p.settle t).2 (p.settle u).2 := by
  induction p generalizing t u with
  | assign a p ih => exact ih (h.apply a)
  | _ => exact h

theorem AgreesWithoutEdges.latchEdge (h : AgreesWithoutEdges t u) : AgreesWithoutEdges t.latchEdge u := by
  obtain ⟨b, rfl⟩ := h
  exact ⟨b, by rw [latchEdge_eq]⟩

theorem AgreesWithoutEdges.complete (h : AgreesWithoutEdges t u) (f : Finish) (es : List Input) :
    AgreesWithoutEdges (f.complete { t with inputs := es }) (f.complete { u with inputs := withoutEdges es }) := by
  obtain ⟨b, rfl⟩ := h
  cases f <;> exact ⟨b, rfl⟩

theorem AgreesWithoutEdges.busFail (h : AgreesWithoutEdges t u) : AgreesWithoutEdges t.busFail u.busFail := by
  obtain ⟨b, rfl⟩ := h
  cases hseq : t.seq with
  | idle => exact ⟨b, by simp only [State.busFail, hseq]⟩
  | fg i trail => exact ⟨b, by simp only [State.busFail, hseq]; rfl⟩
  | irq trail => exact ⟨b, by simp only [State.busFail, hseq]; rfl⟩

/-- The edges among the inputs of a run change the pending bit and nothing else. -/
theorem AgreesWithoutEdges.runScript (h : AgreesWithoutEdges t u) (es : List Input) (p : Script) :
    AgreesWithoutEdges (runScript es p.skip t) (runScript (withoutEdges es) p.skip u) := by
  induction es generalizing p t u with
  | nil =>
    rcases skip_finish_or_waits p with ⟨f, hf⟩ | ⟨ad, hp⟩
    · simpa only [hf, runScript_finish] using h.complete f []
    · obtain ⟨b, rfl⟩ := h
      rw [runScript_waits hp]
      exact ⟨b, runScript_waits hp⟩
  | cons e es ih =>
    rcases skip_finish_or_waits p with ⟨f, hf⟩ | ⟨⟨a, d⟩, hp⟩
    · simpa only [hf, runScript_finish] using h.complete f (e :: es)
    have hcons := fun (he : e ≠ .dio0Rise) =>
      (congrArg (Machine.runScript · p.skip u) (withoutEdges_cons he es)).trans (runScript_cons hp e _)
    obtain ⟨pending, hpending⟩ := id h
    rw [runScript_cons hp]
    cases e with
    | dio0Rise => exact ih h.latchEdge p
    | bus r =>
      rw [hcons nofun, hpending]
      cases r with
      | byte b =>
        simp only [settle_fst]
        exact ih (AgreesWithoutEdges.settle ⟨pending, rfl⟩ _) _
      | error => exact AgreesWithoutEdges.busFail ⟨pending, rfl⟩
    | rst =>
      rw [hcons nofun, hpending]
      exact ⟨false, rfl⟩
    | command w bytes =>
      rw [hcons nofun, hpending]
      exact ih ⟨pending, rfl⟩ p
    | takeCallback =>
      rw [hcons nofun, hpending]
      exact ih ⟨pending, rfl⟩ p

/-- So do the edges among the inputs of a command, which is refused or begun without looking at them. -/
theorem agreesWithoutEdges_exec {i : Instr} {s : State} (ht : exec i s = .next t)
    (hu : exec i { s with inputs := withoutEdges s.inputs } = .next u) : AgreesWithoutEdges t u := by
  rcases exec_refused_or_runs i s with ⟨st, href⟩ | hrun
  · obtain rfl := Host.Outcome.next.inj (ht.symm.trans (href s.inputs))
    obtain rfl := Host.Outcome.next.inj (hu.symm.trans (href _))
    exact ⟨s.irqPending, rfl⟩
  · obtain rfl := Host.Outcome.next.inj (ht.symm.trans (hrun s.inputs))
    obtain rfl := Host.Outcome.next.inj (hu.symm.trans (hrun _))
    have hbegun : AgreesWithoutEdges (begun i s) { begun i s with inputs := withoutEdges (begun i s).inputs } :=
      ⟨_, rfl⟩
    rw [← runScript_inputs (withoutEdges s.inputs) _ (begun i s) (withoutEdges (begun i s).inputs)]
    exact hbegun.runScript s.inputs _

end

end Sys2Proof.Machine
end

section
/-! CERTIFICATES. The receive interrupt (spec/60_exceptions.md R184 to R192): the latch, where the handler starts, what it
does, and the commands it waits for. -/

namespace Sys2Proof.Machine

open Sys2Proof

/-! ## The handler on answers of the bus -/

/-- Settles O45: behind flags with a CRC error the two transfers are all of the sequence. -/
theorem handlerDropsCrcError : Obligations.HandlerDropsCrcError := by
  unfold Obligations.HandlerDropsCrcError
  intro s v x rest hidle hp hcrc hin
  have htakes : (afterHandlerFlags s.cfg s.implicitShadow v).Takes [] := by simp [afterHandlerFlags_crcError hcrc]
  refine (runSteps_handler hidle hp htakes hin).trans ?_
  simp [afterHandlerFlags_crcError hcrc, afterEvents]

/-- Settles O46: behind flags without a CRC error the sequence is `ExtractPayload`, and the event carries what it
extracted. -/
theorem handlerDeliversPayload : Obligations.HandlerDeliversPayload := by
  unfold Obligations.HandlerDeliversPayload
  intro s v x a y len p rest hidle hp hcrc hlen hin c lenReg
  have htakes : (afterHandlerFlags s.cfg s.implicitShadow v).Takes ([a, y, len] ++ p) := by
    rw [afterHandlerFlags_clear hcrc]
    exact takes_extractPayload _ _ (fun _ => takes_finish _) a y hlen
  have hsteps : 5 + len.toNat = ([a, y, len] ++ p).length + 2 := by
    simp only [List.length_append, List.length_cons, List.length_nil, hlen]
    omega
  rw [hsteps, runSteps_handler hidle hp htakes hin, afterHandlerFlags_clear hcrc,
    startScript_extractPayload s.cfg s.implicitShadow _ a y hlen]
  simp [extractEvents, lengthRegister, afterEvents, lenReg, c]

/-! ## Where the handler and a command start -/

/-- Settles O47: the two ways into a sequence are those of `step_seq`, and the port is that of `portGrows_step`. -/
theorem handlerServedBeforeCommands : Obligations.HandlerServedBeforeCommands := by
  unfold Obligations.HandlerServedBeforeCommands
  refine ⟨fun s hidle hp hin => ?_, fun s t trail h hseq => ?_, fun s t cmd trail h hseq => ?_,
    fun s t => portGrows_step⟩
  · have hrem : remaining s.enterHandler = some (seqHandler s.cfg s.implicitShadow) := rfl
    have hwaits : (seqHandler s.cfg s.implicitShadow).request = some _ := rfl
    rw [step_eq_step_enterHandler hidle hp (by simp [rstAsserted, hin]), step_of_remaining hrem, enterHandler_inputs, hin,
      untilAnswer, runScript_waits hwaits]
    simp [State.giveBack, State.enterHandler, hin]
  · rcases step_seq h with hidle | ⟨i, after, hfg, -⟩ | ⟨after, -, hfrom⟩
    · cases hseq.symm.trans hidle
    · cases hseq.symm.trans hfg
    · exact hfrom
  · rcases step_seq h with hidle | ⟨i, after, hfg, hfrom⟩ | ⟨after, hirq, -⟩
    · cases hseq.symm.trans hidle
    · cases hseq.symm.trans hfg
      exact hfrom
    · cases hseq.symm.trans hirq

/-! ## The latch -/

/-- Settles O44: an idle unit with nothing on the port absorbs the edge, and a sequence that waits takes it before its
answer. -/
theorem edgeIsLatched : Obligations.EdgeIsLatched := by
  unfold Obligations.EdgeIsLatched
  rintro s hin (⟨hready, hwords⟩ | hreq)
  · obtain ⟨hidle, hp⟩ := ready_iff.1 hready
    have hr : rstAsserted s = false := by simp [rstAsserted, hin]
    simp [step, hidle, hr, hp, fetchCommand, hwords, idleStep, hin, nextEvent, absorb, latchEdge_eq]
  · obtain ⟨⟨a, d⟩, hreq⟩ := Option.isSome_iff_exists.1 hreq
    obtain ⟨q, hrem, hq⟩ := busRequest_eq_some.1 hreq
    rw [step_of_remaining hrem, hin]
    simp [untilAnswer, runScript_cons hq, runScript_waits hq, latchEdge_eq, State.giveBack]

/-! ## A command outside READY -/

theorem exec_of_not_ready {i : Instr} {s : State} (hidle : s.seq = .idle) (hwf : i.wf s.cfg = true) (hi : i ≠ .init)
    (hready : s.ustate ≠ .ready) : exec i s = .next { s with log := s.log ++ [.response .errState 0 []] } := by
  rw [exec_eq, runCommand, if_pos hwf, if_neg (by simp [lifecycleAllows, hi, hready]), respond_of_idle hidle]

/-- Settles O12: the word and its data bytes leave the port, then the lifecycle check refuses the command. -/
theorem notReadyAnswersErrState : Obligations.NotReadyAnswersErrState := by
  unfold Obligations.NotReadyAnswersErrState
  intro s w ws i hready hr hw hd hwf hi hstate
  obtain ⟨hidle, -⟩ := ready_iff.1 hready
  have hexec := exec_of_not_ready (s := (s.takeCommand (dataCount s.cfg.op w)).forOneTransfer) hidle hwf hi hstate
  rw [step_of_command hready hr (fetchCommand_of_ok hw hd), atomicallyExec_of_exec hexec, takeCommand_eq hw]
  simp [State.giveBack, State.forOneTransfer]

/-! ## Edges inside a command -/

/-- Settles O52: without the edges the command ends in the same state but for the pending bit. -/
theorem edgesOnlyLatch : Obligations.EdgesOnlyLatch := by
  unfold Obligations.EdgesOnlyLatch
  intro i s t u ht hu
  obtain ⟨pending, rfl⟩ := agreesWithoutEdges_exec ht hu
  rfl

end Sys2Proof.Machine
end

section
/-! CERTIFICATES. `rst` and the end of every sequence but that of `ENDPKT` (spec/70_reset_and_hazards.md R210, R230): how
many transfers a script makes at most, whatever the chip answers. -/

namespace Sys2Proof.Machine

open Sys2Proof

/-! ## Scripts that end within a number of transfers -/

/-- Every path through the script ends behind at most this many transfers, and none of them polls. -/
def Script.EndsWithin : Script → Nat → Prop
  | .finish _, _ => True
  | .assign _ p, n => p.EndsWithin n
  | .xfer _ _ _, 0 => False
  | .xfer _ _ k, n + 1 => ∀ b, (k b).EndsWithin n
  | .poll _ _ _ _ _, _ => False

section
variable {p : Script} {n : Nat} (c : UnitCfg)

theorem Script.EndsWithin.mono {m : Nat} (h : p.EndsWithin n) (hle : n ≤ m) : p.EndsWithin m := by
  induction p generalizing n m with
  | finish f => trivial
  | assign a p ih => exact ih h hle
  | xfer a d k ih =>
    cases n with
    | zero => exact h.elim
    | succ n =>
      cases m with
      | zero => omega
      | succ m => exact fun b => ih b (h b) (by omega)
  | poll a d stop k _ ih => exact h.elim

@[simp] theorem endsWithin_finish (f : Finish) : (Script.finish f).EndsWithin n := trivial
@[simp] theorem endsWithin_respondOk (result : BitVec 32) : (respondOk result).EndsWithin n := trivial
@[simp] theorem endsWithin_raise (st : Status) (info : BitVec 32) : (raise st info).EndsWithin n := trivial
@[simp] theorem endsWithin_assign (a : Assign) : (Script.assign a p).EndsWithin n ↔ p.EndsWithin n := Iff.rfl
@[simp] theorem endsWithin_busRead (addr : Addr) (k : Byte → Script) :
    (busRead c addr k).EndsWithin (n + 1) ↔ ∀ b, (k b).EndsWithin n := Iff.rfl
@[simp] theorem endsWithin_busWrite (addr : Addr) (v : Byte) :
    (busWrite c addr v p).EndsWithin (n + 1) ↔ p.EndsWithin n := forall_const Byte
@[simp] theorem endsWithin_ite (b : Prop) [Decidable b] (q : Script) :
    (if b then p else q).EndsWithin n ↔ (b → p.EndsWithin n) ∧ (¬ b → q.EndsWithin n) := by
  split <;> simp_all

@[simp] theorem endsWithin_rmw (addr : Addr) (mask val : Byte) (k : Byte → Script) :
    (rmw c addr mask val k).EndsWithin (n + 2) ↔ ∀ old, (k (maskedUpdate old mask val)).EndsWithin n := by
  simp [rmw]

@[simp] theorem endsWithin_rmwField (addr : Addr) (f : Field) (v : Byte) (k : Byte → Script) :
    (rmwField c addr f v k).EndsWithin (n + 2) ↔ ∀ old, (k (maskedUpdate old f.mask (fieldPlace f v))).EndsWithin n :=
  endsWithin_rmw c addr f.mask _ k

@[simp] theorem endsWithin_setMode (sel : BitVec 3) : (setMode c sel p).EndsWithin (n + 2) ↔ p.EndsWithin n := by
  simp [setMode]

@[simp] theorem endsWithin_setLongRange (en : Bool) : (setLongRange c en p).EndsWithin (n + 4) ↔ p.EndsWithin n := by
  simp [setLongRange]

@[simp] theorem endsWithin_setImplicit (b : Bool) : (setImplicit c b p).EndsWithin (n + 2) ↔ p.EndsWithin n := by
  simp [setImplicit]

theorem endsWithin_headerForSize (h : p.EndsWithin n) (size : Byte) : (headerForSize c size p).EndsWithin (n + 3) := by
  unfold headerForSize
  split
  · exact (endsWithin_setImplicit c false).2 (h.mono (by omega))
  · simpa using h

theorem endsWithin_writeFifo (h : p.EndsWithin n) (bytes : List Byte) :
    (writeFifo c bytes p).EndsWithin (bytes.length + n) := by
  induction bytes with
  | nil => simpa using h
  | cons b bytes ih =>
    rw [List.length_cons, Nat.add_right_comm]
    exact (endsWithin_busWrite c _ b).2 ih

theorem endsWithin_readFifo {k : List Byte → Script} (h : ∀ bytes, (k bytes).EndsWithin 0) (n : Nat) (got : List Byte) :
    (readFifo c k n got).EndsWithin n := by
  induction n generalizing got with
  | zero => exact h got
  | succ n ih => exact fun b => ih _

/-- `ExtractPayload` makes three transfers before the data, and the length is a byte. -/
theorem endsWithin_extractPayload (implicit : Bool) {k : List Byte → Script} (h : ∀ bytes, (k bytes).EndsWithin 0) :
    (extractPayload c implicit k).EndsWithin 258 := by
  simp only [extractPayload, endsWithin_busRead, endsWithin_busWrite]
  exact fun _ len => (endsWithin_readFifo c h len.toNat []).mono (by omega)

/-- `WRITE` makes two transfers of its own, and accepts no more bytes than a packet holds. -/
theorem endsWithin_seqWrite {c : UnitCfg} (hmax : c.maxPkt ≤ 255) (data : List Byte) :
    (seqWrite c data).EndsWithin 257 := by
  simp only [seqWrite, endsWithin_busRead]
  intro cur
  have htail : ∀ v r, (busWrite c c.chip.payloadLength v (respondOk r)).EndsWithin 1 := by simp
  refine (endsWithin_writeFifo c (htail _ _) _).mono ?_
  have hcount : acceptedCount c cur data.length ≤ c.maxPkt := by
    unfold acceptedCount capacity
    omega
  rw [List.length_take]
  omega

end

/-- Every command but `ENDPKT` makes at most 258 transfers; `RDPAYLOAD` can make that many. -/
theorem sequenceOf_endsWithin {i : Instr} {s : State} (hi : i ≠ .endpkt) (hmax : s.cfg.maxPkt ≤ 255) :
    (sequenceOf i s).EndsWithin 258 := by
  cases i with
  | init => simp [sequenceOf, seqInit]
  | rdreg addr => simp [sequenceOf, seqRdreg]
  | wrreg addr value => simp [sequenceOf, seqWrreg]
  | setmode sel => simp [sequenceOf, seqSetmode]
  | setlr en => simp [sequenceOf, seqSetlr]
  | setfreq f => simp [sequenceOf, seqSetfreq]
  | settxpwr level boost => simp [sequenceOf, seqSettxpwr]
  | setbw b => simp [sequenceOf, seqSetbw]
  | setsf sf => simp [sequenceOf, seqSetsf]
  | setldr ldr => simp [sequenceOf, seqSetldr, writeLdr]
  | setcr den => simp [sequenceOf, seqSetcr]
  | setpreamble len => simp [sequenceOf, seqSetpreamble]
  | setsync sw => simp [sequenceOf, seqSetsync]
  | setcrc en => simp [sequenceOf, seqSetcrc]
  | setimpl en => simp [sequenceOf, seqSetimpl]
  | beginpkt => simp [sequenceOf, seqBeginpkt]
  | write data => exact (endsWithin_seqWrite hmax data).mono (by omega)
  | endpkt => exact absurd rfl hi
  | receive size =>
    have hmode : (setMode s.cfg s.cfg.sel.rxCont (respondOk 0)).EndsWithin 255 := by simp
    exact endsWithin_headerForSize s.cfg hmode size
  | rxpoll size =>
    rw [sequenceOf, seqRxpoll_eq]
    have hflags : ∀ v, (afterRxFlags s.cfg v).EndsWithin 253 := fun v => by simp [afterRxFlags]
    exact endsWithin_headerForSize s.cfg (n := 255) (by simpa using hflags) size
  | rdpayload => exact endsWithin_extractPayload _ _ fun _ => trivial
  | pktrssi => cases hf : s.freqShadow <;> simp [sequenceOf, seqPktrssi, hf]
  | pktsnr => simp [sequenceOf, seqPktsnr]
  | onrecv en => cases en <;> simp [sequenceOf, seqOnrecv]

/-- Answered as many bytes as it makes transfers at most, the script has ended. -/
theorem Script.EndsWithin.runScript_seq {p : Script} {n : Nat} (h : p.EndsWithin n) {bytes : List Byte}
    (hlen : n ≤ bytes.length) (s : State) : (runScript (busAnswers bytes) p.skip (p.settle s).2).seq = .idle := by
  induction p generalizing n bytes s with
  | finish f => simp [Script.skip]
  | assign a p ih => exact ih h hlen _
  | xfer a d k ih =>
    cases n with
    | zero => exact h.elim
    | succ n =>
      cases bytes with
      | nil => simp at hlen
      | cons b bytes =>
        have hrest : n ≤ bytes.length := by simpa using hlen
        rw [busAnswers_cons, runScript_cons rfl]
        simp only [settle_fst]
        exact ih b (h b) hrest _
  | poll a d stop m k ih => exact h.elim

/-- Settles O34: a refusal is an answer, and a sequence of at most 258 transfers has ended where 258 are answered. -/
theorem otherCommandsEnd : Obligations.OtherCommandsEnd := by
  unfold Obligations.OtherCommandsEnd
  intro i s bs hi hmax hin hlen
  rw [exec_eq]
  rcases runCommand_cases i (sequenceOf i s) s with ⟨-, he⟩ | ⟨-, -, he⟩ | ⟨-, -, he⟩
  · exact ⟨_, he, rfl⟩
  · exact ⟨_, he, rfl⟩
  · refine ⟨_, he, ?_⟩
    rw [startScript_eq, hin]
    exact (sequenceOf_endsWithin hi hmax).runScript_seq hlen _

/-! ## `rst` -/

section
variable {s : State} {rest : List Input}

/-- A unit that waits for a transfer resets behind the record that the transfer is abandoned. -/
theorem step_of_rst_waiting {a d : Byte} (hreq : busRequest s = some (a, d)) (hin : s.inputs = .rst :: rest) :
    step s = .next (State.applyReset { s with inputs := rest, log := s.log ++ [.abandoned a d] }) := by
  obtain ⟨q, hrem, hq⟩ := busRequest_eq_some.1 hreq
  rw [step_of_remaining hrem, hin]
  simp [untilAnswer, runScript_cons hq, State.applyReset, State.giveBack]

/-- An idle unit takes an asserted `rst` before anything else. -/
theorem step_of_rst_idle (hidle : s.seq = .idle) (hin : s.inputs = .rst :: rest) :
    step s = .next (State.applyReset { s with inputs := rest }) := by
  have hr : rstAsserted s = true := by simp [rstAsserted, hin]
  simp [step, hidle, hr, idleStep, hin, nextEvent, absorb]

end

/-- Settles O43: either way the step is `State.applyReset`, behind the record of a transfer that is outstanding. -/
theorem rstAbandonsSequence : Obligations.RstAbandonsSequence := by
  unfold Obligations.RstAbandonsSequence
  intro s rest hin
  refine ⟨fun a d hreq => ?_, fun hidle => step_of_rst_idle hidle hin⟩
  rw [step_of_rst_waiting hreq hin]
  simp [State.applyReset]

end Sys2Proof.Machine
end
